-- ==== Sys2Proof/Word.lean ====
section
/-!
DEFINITION. The word types of the CHIP-8 interpreter core (00_scope.md R5, R6). Everything is unsigned; nothing is ever
sign-extended.
-/

namespace Sys2Proof

/-- A memory cell, a general register, a timer, the immediate `kk`: 8 bits. -/
abbrev Byte := BitVec 8

/-- An instruction word, `PC`, `I`, a call stack slot: 16 bits. -/
abbrev Word := BitVec 16

/-- The 12-bit immediate `nnn`. -/
abbrev Imm12 := BitVec 12

/-- A 4-bit field of an instruction word (30_encoding.md R61). -/
abbrev Nibble := BitVec 4

/-- The index of a general register: every 4-bit value names one (10_state.md R11). -/
abbrev RegIdx := BitVec 4

end Sys2Proof
end

