-- ==== Sys2Proof/Syntax.lean ====
section
/-!
DEFINITION. The instructions: one constructor per row of spec/opcode_table.json, the 34 instructions of 30_encoding.md R66
and the four reserved spaces of R67. A field written `z` is not decoded (R65, R68): it is carried so that no bit of a word
is lost, and no meaning reads it (log 13).
-/

namespace Sys2Proof

/-- The instructions of the core, in the table's order. -/
inductive Instr where
  /-- `00E0` clear the display (R140). -/
  | cls
  /-- `00EE` return (R100). -/
  | ret
  /-- `1nnn` jump (R101). -/
  | jp (nnn : Imm12)
  /-- `2nnn` call (R102). -/
  | call (nnn : Imm12)
  /-- `3xkk` skip if `V[x] = kk` (R103). -/
  | seVxKk (x : RegIdx) (kk : Byte)
  /-- `4xkk` skip if `V[x] != kk` (R104). -/
  | sneVxKk (x : RegIdx) (kk : Byte)
  /-- `5xyz` skip if `V[x] = V[y]` (R105); `z` is not decoded. -/
  | seVxVy (x y : RegIdx) (z : Nibble)
  /-- `6xkk` load an immediate (R111). -/
  | ldVxKk (x : RegIdx) (kk : Byte)
  /-- `7xkk` add an immediate, no carry (R112). -/
  | addVxKk (x : RegIdx) (kk : Byte)
  /-- `8xy0` copy a register (R113). -/
  | ldVxVy (x y : RegIdx)
  /-- `8xy1` bitwise or (R114). -/
  | orVxVy (x y : RegIdx)
  /-- `8xy2` bitwise and (R115). -/
  | andVxVy (x y : RegIdx)
  /-- `8xy3` bitwise exclusive or (R116). -/
  | xorVxVy (x y : RegIdx)
  /-- `8xy4` add with carry out (R117). -/
  | addVxVy (x y : RegIdx)
  /-- `8xy5` subtract (R118). -/
  | subVxVy (x y : RegIdx)
  /-- `8xz6` shift right by one (R119); `z` is not decoded. -/
  | shrVx (x : RegIdx) (z : Nibble)
  /-- `8xy7` subtract reversed (R120). -/
  | subnVxVy (x y : RegIdx)
  /-- `8xzE` shift left by one (R121); `z` is not decoded. -/
  | shlVx (x : RegIdx) (z : Nibble)
  /-- `9xyz` skip if `V[x] != V[y]` (R106); `z` is not decoded. -/
  | sneVxVy (x y : RegIdx) (z : Nibble)
  /-- `Annn` load the address register (R130). -/
  | ldINnn (nnn : Imm12)
  /-- `Bnnn` jump to `nnn + V[0]` (R107). -/
  | jpV0 (nnn : Imm12)
  /-- `Cxkk` masked random byte (R122). -/
  | rnd (x : RegIdx) (kk : Byte)
  /-- `Dxyn` draw an `n`-row sprite (R141). -/
  | drw (x y : RegIdx) (n : Nibble)
  /-- `Ex9E` skip if the key is pressed (R142). -/
  | skp (x : RegIdx)
  /-- `ExA1` skip if the key is not pressed (R143). -/
  | sknp (x : RegIdx)
  /-- `Fx07` read the delay timer (R144). -/
  | ldVxDt (x : RegIdx)
  /-- `Fx0A` wait for a key (R145). -/
  | ldVxK (x : RegIdx)
  /-- `Fx15` write the delay timer (R146). -/
  | ldDtVx (x : RegIdx)
  /-- `Fx18` write the sound timer (R147). -/
  | ldStVx (x : RegIdx)
  /-- `Fx1E` add to the address register (R131). -/
  | addIVx (x : RegIdx)
  /-- `Fx29` glyph address (R132). -/
  | ldFVx (x : RegIdx)
  /-- `Fx33` store the three decimal digits (R133). -/
  | ldBVx (x : RegIdx)
  /-- `Fx55` store `V[0]..V[x]` (R134). -/
  | ldMiVx (x : RegIdx)
  /-- `Fx65` load `V[0]..V[x]` (R135). -/
  | ldVxMi (x : RegIdx)
  /-- Family 0, any other word (R161). -/
  | unk0 (nnn : Imm12)
  /-- Family 8, any other low nibble (R162). -/
  | unk8 (x y : RegIdx) (n : Nibble)
  /-- Family E, any other low byte (R163). -/
  | unkE (x : RegIdx) (kk : Byte)
  /-- Family F, any other low byte (R164). -/
  | unkF (x : RegIdx) (kk : Byte)
deriving DecidableEq, Repr

end Sys2Proof
end

