-- ==== Sys2Proof/WellFormed.lean ====
section
/-!
DEFINITION. Which terms of `Instr` stand for a word: every term but a reserved one that carries the word of an instruction
(30_encoding.md R67). The fields' ranges are in the types.
-/

namespace Sys2Proof

/-- The low nibbles of family 8 that name an instruction (30_encoding.md R64). -/
def fam8Known : List Nibble := [0x0, 0x1, 0x2, 0x3, 0x4, 0x5, 0x6, 0x7, 0xE]

/-- The low bytes of family E that name an instruction (30_encoding.md R64). -/
def famEKnown : List Byte := [0x9E, 0xA1]

/-- The low bytes of family F that name an instruction (30_encoding.md R64). -/
def famFKnown : List Byte := [0x07, 0x0A, 0x15, 0x18, 0x1E, 0x29, 0x33, 0x55, 0x65]

/-- The term is what the decoder gives for some word: a reserved term carries no instruction's word (30_encoding.md R67). -/
def Instr.wellFormed : Instr → Bool
  | .cls => true
  | .ret => true
  | .jp _ => true
  | .call _ => true
  | .seVxKk _ _ => true
  | .sneVxKk _ _ => true
  | .seVxVy _ _ _ => true
  | .ldVxKk _ _ => true
  | .addVxKk _ _ => true
  | .ldVxVy _ _ => true
  | .orVxVy _ _ => true
  | .andVxVy _ _ => true
  | .xorVxVy _ _ => true
  | .addVxVy _ _ => true
  | .subVxVy _ _ => true
  | .shrVx _ _ => true
  | .subnVxVy _ _ => true
  | .shlVx _ _ => true
  | .sneVxVy _ _ _ => true
  | .ldINnn _ => true
  | .jpV0 _ => true
  | .rnd _ _ => true
  | .drw _ _ _ => true
  | .skp _ => true
  | .sknp _ => true
  | .ldVxDt _ => true
  | .ldVxK _ => true
  | .ldDtVx _ => true
  | .ldStVx _ => true
  | .addIVx _ => true
  | .ldFVx _ => true
  | .ldBVx _ => true
  | .ldMiVx _ => true
  | .ldVxMi _ => true
  | .unk0 nnn => nnn != 0x0E0 && nnn != 0x0EE
  | .unk8 _ _ n => !fam8Known.contains n
  | .unkE _ kk => !famEKnown.contains kk
  | .unkF _ kk => !famFKnown.contains kk

end Sys2Proof
end

