-- ==== Sys2Proof/Decode.lean ====
section
/-!
DEFINITION. The decoder (30_encoding.md R64), total on words and on lists of bytes, and after it the encoder, written from
the map of R66 and the formats of R62.
-/

namespace Sys2Proof

/-- The family, `op[15:12]` (30_encoding.md R61). -/
def fieldFam (op : Word) : Nibble := op.extractLsb' 12 4

/-- The register index `x`, `op[11:8]` (30_encoding.md R61). -/
def fieldX (op : Word) : RegIdx := op.extractLsb' 8 4

/-- The register index `y`, `op[7:4]` (30_encoding.md R61). -/
def fieldY (op : Word) : RegIdx := op.extractLsb' 4 4

/-- The nibble `n`, `op[3:0]` (30_encoding.md R61). -/
def fieldN (op : Word) : Nibble := op.extractLsb' 0 4

/-- The byte `kk`, `op[7:0]` (30_encoding.md R61). -/
def fieldKk (op : Word) : Byte := op.extractLsb' 0 8

/-- The immediate `nnn`, `op[11:0]` (30_encoding.md R61). -/
def fieldNnn (op : Word) : Imm12 := op.extractLsb' 0 12

/-- Family 0: the whole word is the key (30_encoding.md R65). -/
def decodeFam0 (nnn : Imm12) : Instr :=
  if nnn = 0x0E0 then .cls
  else if nnn = 0x0EE then .ret
  else .unk0 nnn

/-- Family 8: the low nibble is the key (30_encoding.md R64, R65); the `y` of the shifts is not decoded (R68). -/
def decodeFam8 (x y : RegIdx) (n : Nibble) : Instr :=
  match n.toNat with
  | 0x0 => .ldVxVy x y
  | 0x1 => .orVxVy x y
  | 0x2 => .andVxVy x y
  | 0x3 => .xorVxVy x y
  | 0x4 => .addVxVy x y
  | 0x5 => .subVxVy x y
  | 0x6 => .shrVx x y
  | 0x7 => .subnVxVy x y
  | 0xE => .shlVx x y
  | _ => .unk8 x y n

/-- Family E: the low byte is the key (30_encoding.md R64, R65). -/
def decodeFamE (x : RegIdx) (kk : Byte) : Instr :=
  match kk.toNat with
  | 0x9E => .skp x
  | 0xA1 => .sknp x
  | _ => .unkE x kk

/-- Family F: the low byte is the key (30_encoding.md R64, R65). -/
def decodeFamF (x : RegIdx) (kk : Byte) : Instr :=
  match kk.toNat with
  | 0x07 => .ldVxDt x
  | 0x0A => .ldVxK x
  | 0x15 => .ldDtVx x
  | 0x18 => .ldStVx x
  | 0x1E => .addIVx x
  | 0x29 => .ldFVx x
  | 0x33 => .ldBVx x
  | 0x55 => .ldMiVx x
  | 0x65 => .ldVxMi x
  | _ => .unkF x kk

/-- `Decode(op)` of 30_encoding.md R64: every word decodes. -/
def decode (op : Word) : Instr :=
  match (fieldFam op).toNat with
  | 0x0 => decodeFam0 (fieldNnn op)
  | 0x1 => .jp (fieldNnn op)
  | 0x2 => .call (fieldNnn op)
  | 0x3 => .seVxKk (fieldX op) (fieldKk op)
  | 0x4 => .sneVxKk (fieldX op) (fieldKk op)
  | 0x5 => .seVxVy (fieldX op) (fieldY op) (fieldN op)
  | 0x6 => .ldVxKk (fieldX op) (fieldKk op)
  | 0x7 => .addVxKk (fieldX op) (fieldKk op)
  | 0x8 => decodeFam8 (fieldX op) (fieldY op) (fieldN op)
  | 0x9 => .sneVxVy (fieldX op) (fieldY op) (fieldN op)
  | 0xA => .ldINnn (fieldNnn op)
  | 0xB => .jpV0 (fieldNnn op)
  | 0xC => .rnd (fieldX op) (fieldKk op)
  | 0xD => .drw (fieldX op) (fieldY op) (fieldN op)
  | 0xE => decodeFamE (fieldX op) (fieldKk op)
  | _ => decodeFamF (fieldX op) (fieldKk op)

/-- Why a list of bytes gives no instruction. -/
inductive DecodeReject where
  /-- Fewer than the two bytes every instruction has (30_encoding.md R60). -/
  | truncated
deriving DecidableEq, Repr

/-- Two bytes packed big-endian: the byte at the lower address is the high one (20_memory.md R41). -/
def packWord (hi lo : Byte) : Word := hi ++ lo

/-- The high byte of a word, which lies at the lower address (20_memory.md R41). -/
def highByte (op : Word) : Byte := op.extractLsb' 8 8

/-- The low byte of a word, which lies at the higher address (20_memory.md R41). -/
def lowByte (op : Word) : Byte := op.extractLsb' 0 8

/-- The instruction at the head of a list of bytes, with the bytes after it. No pair of bytes is illegal
(30_encoding.md R69); a list too short is rejected by name. -/
def decodeBytes : List Byte → Except DecodeReject (Instr × List Byte)
  | hi :: lo :: rest => .ok (decode (packWord hi lo), rest)
  | [_] => .error .truncated
  | [] => .error .truncated

/-- The format `A`: a family and `nnn` (30_encoding.md R62). -/
def encodeA (fam : Nibble) (nnn : Imm12) : Word := fam ++ nnn

/-- The formats `XK` and `XS`: a family, `x` and a byte (30_encoding.md R62). -/
def encodeXK (fam : Nibble) (x : RegIdx) (kk : Byte) : Word := fam ++ x ++ kk

/-- The formats `XY` and `XYN`: a family, `x`, `y` and a nibble (30_encoding.md R62). -/
def encodeXY (fam : Nibble) (x y : RegIdx) (n : Nibble) : Word := fam ++ x ++ y ++ n

/-- The word of an instruction (30_encoding.md R66, R67). -/
def encode : Instr → Word
  | .cls => 0x00E0
  | .ret => 0x00EE
  | .jp nnn => encodeA 0x1 nnn
  | .call nnn => encodeA 0x2 nnn
  | .seVxKk x kk => encodeXK 0x3 x kk
  | .sneVxKk x kk => encodeXK 0x4 x kk
  | .seVxVy x y z => encodeXY 0x5 x y z
  | .ldVxKk x kk => encodeXK 0x6 x kk
  | .addVxKk x kk => encodeXK 0x7 x kk
  | .ldVxVy x y => encodeXY 0x8 x y 0x0
  | .orVxVy x y => encodeXY 0x8 x y 0x1
  | .andVxVy x y => encodeXY 0x8 x y 0x2
  | .xorVxVy x y => encodeXY 0x8 x y 0x3
  | .addVxVy x y => encodeXY 0x8 x y 0x4
  | .subVxVy x y => encodeXY 0x8 x y 0x5
  | .shrVx x z => encodeXY 0x8 x z 0x6
  | .subnVxVy x y => encodeXY 0x8 x y 0x7
  | .shlVx x z => encodeXY 0x8 x z 0xE
  | .sneVxVy x y z => encodeXY 0x9 x y z
  | .ldINnn nnn => encodeA 0xA nnn
  | .jpV0 nnn => encodeA 0xB nnn
  | .rnd x kk => encodeXK 0xC x kk
  | .drw x y n => encodeXY 0xD x y n
  | .skp x => encodeXK 0xE x 0x9E
  | .sknp x => encodeXK 0xE x 0xA1
  | .ldVxDt x => encodeXK 0xF x 0x07
  | .ldVxK x => encodeXK 0xF x 0x0A
  | .ldDtVx x => encodeXK 0xF x 0x15
  | .ldStVx x => encodeXK 0xF x 0x18
  | .addIVx x => encodeXK 0xF x 0x1E
  | .ldFVx x => encodeXK 0xF x 0x29
  | .ldBVx x => encodeXK 0xF x 0x33
  | .ldMiVx x => encodeXK 0xF x 0x55
  | .ldVxMi x => encodeXK 0xF x 0x65
  | .unk0 nnn => encodeA 0x0 nnn
  | .unk8 x y n => encodeXY 0x8 x y n
  | .unkE x kk => encodeXK 0xE x kk
  | .unkF x kk => encodeXK 0xF x kk

/-- The instruction's bytes in the order they lie in memory: high byte first (20_memory.md R41, R42). -/
def encodeBytes (i : Instr) : List Byte := [highByte (encode i), lowByte (encode i)]

/-- The instruction word that the table's bits `w` of a row of `nbits` bits stand for: bits above `nbits` are 0. -/
def tableWord (nbits w : Nat) : Word := BitVec.ofNat 16 (w % 2 ^ nbits)

/-- What the decoder reads from an instruction whose bits, numbered as spec/opcode_table.json numbers them, are `w`: the one
16-bit word is laid out high byte first and given to `decodeBytes`. -/
def decodeTableWord (nbits w : Nat) : Option Instr :=
  match decodeBytes [highByte (tableWord nbits w), lowByte (tableWord nbits w)] with
  | .ok (i, _) => some i
  | .error _ => none

end Sys2Proof
end

