-- ==== Sys2Proof/Config.lean ====
section
/-!
DEFINITION. What an implementation fixes (00_scope.md R5) and the one free value, the random byte.
-/

namespace Sys2Proof

/-- The size of the address space: 4096 bytes (00_scope.md R5, `MEM_SIZE`). -/
abbrev memSize : Nat := 4096

/-- The entry point and the base of a loaded program (00_scope.md R5, `PC_RESET`, `PROG_BASE`). -/
abbrev progBase : Nat := 0x200

/-- Where the font is loaded (00_scope.md R5, `FONT_BASE`). -/
abbrev fontBase : Nat := 0x000

/-- The call stack's depth (00_scope.md R5, `STACK_DEPTH`). -/
abbrev stackDepth : Nat := 16

/-- The frequency of the tone (00_scope.md R5, `TONE_HZ`). -/
abbrev toneHz : Nat := 440

/-- The OPEN parameters of the hardware that a transaction reads: `SPEED` (10_state.md R23) and `FONT`
(70_reset_and_hazards.md R206). The spec calls them arguments of the model: they stand in `State` as data no step changes,
so that a statement about every state is a statement about every `SPEED` and every `FONT` (logs 4 and 5). -/
structure Config where
  /-- Instructions executed per frame step; `SPEED >= 1`. -/
  speed : Nat
  /-- The 80 glyph bytes, glyph `d` at `5*d .. 5*d+4`. -/
  font : Vector Byte 80
deriving DecidableEq, Repr

/-- The customary hexadecimal font, the spec's default of `FONT` (70_reset_and_hazards.md R206). PRESUMED: the spec marks
the bytes as general knowledge (log 5). -/
def Config.customaryFont : Vector Byte 80 := #v[
  0xF0, 0x90, 0x90, 0x90, 0xF0,  0x20, 0x60, 0x20, 0x20, 0x70,
  0xF0, 0x10, 0xF0, 0x80, 0xF0,  0xF0, 0x10, 0xF0, 0x10, 0xF0,
  0x90, 0x90, 0xF0, 0x10, 0x10,  0xF0, 0x80, 0xF0, 0x10, 0xF0,
  0xF0, 0x80, 0xF0, 0x90, 0xF0,  0xF0, 0x10, 0x20, 0x40, 0x40,
  0xF0, 0x90, 0xF0, 0x90, 0xF0,  0xF0, 0x90, 0xF0, 0x10, 0xF0,
  0xF0, 0x90, 0xF0, 0x90, 0x90,  0xE0, 0x90, 0xE0, 0x90, 0xE0,
  0xF0, 0x80, 0x80, 0x80, 0xF0,  0xE0, 0x90, 0x90, 0x90, 0xE0,
  0xF0, 0x80, 0xF0, 0x80, 0xF0,  0xF0, 0x80, 0xF0, 0x80, 0x80]

/-- The defaults of 00_scope.md R5: `SPEED` 10 (log 4), `FONT` the customary table (log 5). -/
def Config.default : Config where
  speed := 10
  font := Config.customaryFont

/-- The byte the random source supplies at the `n`-th draw (42_alu.md R122, 60_exceptions.md R190). A FREE VALUE: no rule
constrains it, so it has no body and a claim holds whatever the sequence of bytes is (log 9). -/
opaque Config.randByte : Nat → Byte

end Sys2Proof
end

