-- ==== Sys2Proof/Machine/State.lean ====
section
/-!
DEFINITION. The machine's state (10_state.md R10, R24), the events on its ports (R30, R31), the reasons a step can stop, and
the state after reset (R26).
-/

namespace Sys2Proof.Machine

open Sys2Proof

/-- Main memory: (address, byte) pairs in one canonical form, addresses strictly rising below 4096, no byte 0. A cell not
listed reads 0, the reset contents (10_state.md R15, R26). -/
abbrev Memory := List Host.Cell

/-- A 64 by 32 picture, one bit per pixel: row `py` is element `py`, and column `px` of it is bit `px`
(60_exceptions.md R184). -/
abbrev Screen := Vector (BitVec 64) 32

/-- The picture with every pixel 0. -/
def Screen.blank : Screen := Vector.replicate 32 0

/-- `MODE`, the source's paused flag (10_state.md R20). -/
inductive Mode where
  /-- Instructions execute. -/
  | running
  /-- Execution is suspended until a key press is delivered. -/
  | awaitKey
deriving DecidableEq, Repr

/-- The value of `FLT`, the fault latch (10_state.md R22, 60_exceptions.md R170). -/
inductive FaultCode where
  /-- 0: no fault. -/
  | none
  /-- 1: raised by nothing (60_exceptions.md R171). -/
  | decodeError
  /-- 2: `00EE` with an empty stack (60_exceptions.md R172). -/
  | stackUnderflow
  /-- 3: `2nnn` with a full stack (60_exceptions.md R173). -/
  | stackOverflow
  /-- 4: an access above 0xFFF (60_exceptions.md R175). -/
  | memoryBoundViolation
deriving DecidableEq, Repr

/-- A command or event the core issues on an output port (10_state.md R31). -/
inductive PortEvent where
  /-- `DISP_CLEAR`. -/
  | dispClear
  /-- `DISP_SETPIXEL` with its coordinates, 9 bits each, and the answer received. -/
  | dispSetPixel (x y : BitVec 9) (erased : Bool)
  /-- `DISP_RENDER`. -/
  | dispRender
  /-- `SPK_PLAY` with its frequency. -/
  | spkPlay (freq : Nat)
  /-- `SPK_STOP`. -/
  | spkStop
  /-- `DIAG_UNKNOWN` with the address and the opcode of an unknown sub-opcode. -/
  | diagUnknown (addr op : Word)
deriving DecidableEq, Repr

/-- What the outside world does to the machine between frame steps: the host transactions of 10_state.md R30 and the
keyboard's changes of a key level (60_exceptions.md R188). -/
inductive HostEvent where
  /-- `RESET` (70_reset_and_hazards.md R200). -/
  | reset
  /-- `LOAD_FONT` (70_reset_and_hazards.md R203). -/
  | loadFont
  /-- `LOAD_PROG` (70_reset_and_hazards.md R204). -/
  | loadProg (bytes : List Byte)
  /-- `FRAME_TICK` (40_execution_cycle.md R80). -/
  | frameTick
  /-- `KEY_DOWN` (40_execution_cycle.md R88). -/
  | keyDown (k : Nibble)
  /-- The keyboard sets the level of key `k` (60_exceptions.md R188); no transaction of the core. -/
  | keyLevel (k : Nibble) (down : Bool)
deriving DecidableEq, Repr

/-- The answer a host transaction gives (10_state.md R30). -/
inductive Answer where
  /-- `LOAD_PROG` wrote the program. -/
  | ok
  /-- `LOAD_PROG` refused a program too long. -/
  | rejected
  /-- `FRAME_TICK` ended normally. -/
  | done
  /-- `FRAME_TICK` ended by a fault, or began on a faulted core. -/
  | fault (code : FaultCode)
deriving DecidableEq, Repr

/-- Why a step stops with a fault. The faults of the spec are no stops: they latch `FLT` and the step answers a next state
(60_exceptions.md R174, log 12). -/
inductive Fault where
  /-- Raised by `step` when `SPEED` is 0, a configuration that 10_state.md R23 excludes (`SPEED >= 1`) and that no step
  reaches. Safe: the spec gives such a machine no behaviour. -/
  | speedZero
deriving DecidableEq, Repr

/-- Why a step is refused. -/
inductive Refusal where
  /-- Raised by an arm of `exec` whose instruction has no meaning yet; no arm raises it now. Safe. -/
  | notModelled (mnemonic : String)
deriving DecidableEq, Repr

/-- The state: the core's (10_state.md R10), the collaborators' (R24), the configuration (R5), the ports' bookkeeping. -/
@[ext]
structure State where
  /-- `SPEED` and `FONT`, changed by no step. -/
  cfg : Config
  /-- `MEM`. -/
  mem : Memory
  /-- `V[0]` to `V[15]`; `V[15]` is the flag register. -/
  v : Vector Byte 16
  /-- `I`, stored as 16 bits, never masked. -/
  i : Word
  /-- `PC`. -/
  pc : Word
  /-- `STACK[0]` to `STACK[15]`; slots at `SP` and above are observable by no instruction (log 10). -/
  stack : Vector Word 16
  /-- `SP`, the number of occupied slots, 0 to 16. -/
  sp : Fin 17
  /-- `DT`. -/
  dt : Byte
  /-- `ST`. -/
  st : Byte
  /-- `MODE`. -/
  mode : Mode
  /-- `KX`, the register that receives the awaited key. -/
  kx : RegIdx
  /-- `FLT`. -/
  flt : FaultCode
  /-- `FLT_ADDR`. -/
  fltAddr : Word
  /-- `FLT_OP`. -/
  fltOp : Word
  /-- The display's framebuffer `FB`. -/
  fb : Screen
  /-- The picture on the output surface since the last `render()`. -/
  surface : Screen
  /-- The key levels `KEYS[15:0]`: bit `c` is 1 while key `c` is down. -/
  keys : BitVec 16
  /-- Whether the speaker is playing. -/
  tone : Bool
  /-- The model's own counter of random bytes taken (log 9). -/
  draws : Nat
  /-- The output trace, newest event first (log 11). -/
  traceRev : List PortEvent
  /-- Slots already run of the open `FRAME_TICK`; 0 between transactions (40_execution_cycle.md R91, log 1). -/
  slot : Nat
  /-- What the host does next, in order; when empty it performs `FRAME_TICK` (log 2). -/
  pending : List HostEvent
  /-- The answer of the last transaction, if it gave one (log 11). -/
  answer : Option Answer
deriving DecidableEq, Repr

/-- The machine as constructed with configuration `cfg` and framebuffer content `fb0` (10_state.md R26,
70_reset_and_hazards.md R200). The collaborators' values the spec leaves open are DESIGN CHOICEs: logs 6, 7, 8, 10. -/
def State.construct (cfg : Config) (fb0 : Screen) : State where
  cfg := cfg
  mem := []
  v := Vector.replicate 16 0
  i := 0
  pc := 0x200
  stack := Vector.replicate 16 0
  sp := 0
  dt := 0
  st := 0
  mode := .running
  kx := 0
  flt := .none
  fltAddr := 0
  fltOp := 0
  fb := fb0
  surface := Screen.blank
  keys := 0
  tone := false
  draws := 0
  traceRev := []
  slot := 0
  pending := []
  answer := none

/-- The machine right after reset (10_state.md R26), with the spec's default configuration and the recommended `FB0`, all
zero (00_scope.md R5). Nothing is loaded: the font and the program come through the host's transactions (log 3). -/
def State.reset : State := State.construct Config.default Screen.blank

end Sys2Proof.Machine
end

