-- ==== Sys2Proof/Machine/Memory.lean ====
section
/-!
DEFINITION. The memory array (10_state.md R15, 20_memory.md R40 to R46): one read and one write of a byte, and blocks of
bytes in ascending address order.
-/

namespace Sys2Proof.Machine

open Sys2Proof

/-- What a cell that is not listed reads as: the reset contents (10_state.md R15, R26). -/
def unlistedByte : Byte := 0

/-- The byte at an address. -/
def Memory.read : Memory → Nat → Byte
  | [], _ => unlistedByte
  | (k, b) :: m, a => if k = a then b else Memory.read m a

/-- Memory with nothing listed at `a`. -/
def Memory.erase (m : Memory) (a : Nat) : Memory := m.filter fun c => c.1 != a

/-- Memory with the pair put before the first higher address. -/
def Memory.insert : Memory → Nat → Byte → Memory
  | [], a, b => [(a, b)]
  | (k, c) :: m, a, b => if a < k then (a, b) :: (k, c) :: m else (k, c) :: Memory.insert m a b

/-- Memory with the byte `b` stored at `a`; storing what an unlisted cell reads as removes the entry. -/
def Memory.write (m : Memory) (a : Nat) (b : Byte) : Memory :=
  if b = unlistedByte then Memory.erase m a else Memory.insert (Memory.erase m a) a b

/-- The canonical form: addresses strictly rising, all below 4096, no byte listed that an unlisted cell reads as. -/
abbrev Memory.wf (m : Memory) : Prop :=
  m.Pairwise (fun c d => c.1 < d.1) ∧ ∀ c ∈ m, c.1 < memSize ∧ c.2 ≠ unlistedByte

/-- Bytes stored from address `a` upward, in ascending order (20_memory.md R45). -/
def Memory.writeBlock : Memory → Nat → List Byte → Memory
  | m, _, [] => m
  | m, a, b :: bs => Memory.writeBlock (Memory.write m a b) (a + 1) bs

/-- The bound check of 20_memory.md R44: the `len` bytes from `base` all lie at addresses up to 0xFFF. -/
def inBounds (base len : Nat) : Bool := base + len ≤ memSize

end Sys2Proof.Machine
end

