-- ==== Sys2Proof/Machine/Ops.lean ====
section
/-!
DEFINITION. The named operations over the state: registers, the program counter, the call stack, the output ports and their
collaborators, and taking a fault (00_scope.md R7). Nothing returns from a fault (60_exceptions.md R178): the only way out is
the `RESET` transaction, in HostPort.lean.
-/

namespace Sys2Proof.Machine

open Sys2Proof

/-- What the meanings answer. -/
abbrev Result := Host.Outcome State Fault Refusal

/-- The index of the flag register `V[15]` (10_state.md R12). -/
def vf : RegIdx := 0xF

/-- The read `V[x]` (00_scope.md R7). -/
def State.reg (s : State) (x : RegIdx) : Byte := s.v[x.toNat]'x.isLt

/-- The write `V[x] <- b` (00_scope.md R7). No register is hardwired (10_state.md R11). -/
def State.setReg (s : State) (x : RegIdx) (b : Byte) : State := { s with v := s.v.set x.toNat b x.isLt }

/-- The write `V[15] <- flag` of a flag, 1 or 0 (10_state.md R12). -/
def State.setFlag (s : State) (flag : Bool) : State := s.setReg vf (if flag then 1 else 0)

/-- The first action of every instruction, `PC <- PC + 2` (40_execution_cycle.md R85). -/
def State.advance (s : State) : State := { s with pc := s.pc + 2 }

/-- `skip()` when the condition holds (40_execution_cycle.md R87). -/
def State.skipIf (s : State) (c : Bool) : State := if c then { s with pc := s.pc + 2 } else s

/-- The write `PC <- target`, for the next fetch (00_scope.md R7). -/
def State.jump (s : State) (target : Word) : State := { s with pc := target }

/-- `push(w)` of 00_scope.md R7; nothing when the stack is full. -/
def State.push (s : State) (w : Word) : Option State :=
  if h : s.sp.val < stackDepth then
    some { s with stack := s.stack.set s.sp.val w h, sp := ⟨s.sp.val + 1, Nat.succ_lt_succ h⟩ }
  else none

/-- `pop()` of 00_scope.md R7: the value and the state without it; nothing when the stack is empty. -/
def State.pop (s : State) : Option (Word × State) :=
  if h : 0 < s.sp.val then
    some (s.stack[s.sp.val - 1]'(by have := s.sp.isLt; omega), { s with sp := ⟨s.sp.val - 1, by have := s.sp.isLt; omega⟩ })
  else none

/-- `emit`: the event is appended to the output trace (00_scope.md R7). -/
def State.emit (s : State) (e : PortEvent) : State := { s with traceRev := e :: s.traceRev }

/-- The output trace in the order issued (10_state.md R33). -/
def State.trace (s : State) : List PortEvent := s.traceRev.reverse

/-- The pixel at column `px`, row `py` (60_exceptions.md R184). -/
def Screen.pixel (f : Screen) (px : Fin 64) (py : Fin 32) : Bool := f[py.val].getLsbD px.val

/-- The picture with one pixel toggled (60_exceptions.md R185). -/
def Screen.toggle (f : Screen) (px : Fin 64) (py : Fin 32) : Screen :=
  f.set py.val (f[py.val] ^^^ BitVec.twoPow 64 px.val)

/-- The column a coordinate wraps to, `x mod 64` (60_exceptions.md R185). -/
def wrapCol (x : Nat) : Fin 64 := Fin.ofNat 64 x

/-- The row a coordinate wraps to, `y mod 32` (60_exceptions.md R185). -/
def wrapRow (y : Nat) : Fin 32 := Fin.ofNat 32 y

/-- `SetPixel(x, y)`: the command with unreduced coordinates, the display's toggle, and the answer `erased`
(60_exceptions.md R185, 10_state.md R31). -/
def State.setPixel (s : State) (x y : Nat) : State × Bool :=
  let erased := Screen.pixel s.fb (wrapCol x) (wrapRow y)
  (({ s with fb := Screen.toggle s.fb (wrapCol x) (wrapRow y) }).emit
    (.dispSetPixel (BitVec.ofNat 9 x) (BitVec.ofNat 9 y) erased), erased)

/-- `DISP_CLEAR`: every pixel of the framebuffer becomes 0 (60_exceptions.md R186). -/
def State.clearDisplay (s : State) : State := ({ s with fb := Screen.blank }).emit .dispClear

/-- `DISP_RENDER`: the framebuffer goes to the output surface and does not change (60_exceptions.md R187). -/
def State.render (s : State) : State := ({ s with surface := s.fb }).emit .dispRender

/-- The speaker update: `SPK_PLAY(440)` if `ST > 0`, else `SPK_STOP` (40_execution_cycle.md R84, 60_exceptions.md R189). -/
def State.updateSpeaker (s : State) : State :=
  if s.st.toNat > 0 then ({ s with tone := true }).emit (.spkPlay toneHz)
  else ({ s with tone := false }).emit .spkStop

/-- A timer's value one tick later: it stops at 0 (40_execution_cycle.md R83). -/
def tick (t : Byte) : Byte := if t.toNat > 0 then t - 1 else t

/-- The timer update (40_execution_cycle.md R83). -/
def State.updateTimers (s : State) : State := { s with dt := tick s.dt, st := tick s.st }

/-- `draw_rand()`: a fresh byte of the random source, a free value (42_alu.md R122, log 9). -/
def State.drawRand (s : State) : Byte × State := (Config.randByte s.draws, { s with draws := s.draws + 1 })

/-- The number the host reads on the `FAULT` port for a latch value (60_exceptions.md R170). -/
def FaultCode.code : FaultCode → BitVec 3
  | .none => 0
  | .decodeError => 1
  | .stackUnderflow => 2
  | .stackOverflow => 3
  | .memoryBoundViolation => 4

/-- Fault entry (60_exceptions.md R174): the latch and its record are written and nothing else: nothing is saved, `PC` is not
redirected, the mode does not change. -/
def State.takeFault (s : State) (code : FaultCode) (addr op : Word) : State :=
  { s with flt := code, fltAddr := addr, fltOp := op }

/-- The instruction `i`, fetched at `s.pc`, raises a fault: `PC` keeps the advanced value, the record takes the instruction's
address and word, no other state changes (40_execution_cycle.md R86). -/
def raiseFault (i : Instr) (code : FaultCode) (s : State) : Result :=
  .next (s.advance.takeFault code s.pc (encode i))

end Sys2Proof.Machine
end

