-- ==== Sys2Proof/Machine/Flags.lean ====
section
/-!
DEFINITION. The flag computations of 10_state.md R12, each the bit that goes to `V[15]`.
-/

namespace Sys2Proof.Machine

open Sys2Proof

/-- The carry of `8xy4`: the exact sum exceeds 255 (42_alu.md R117). -/
def carryFlag (a b : Byte) : Bool := decide (a.toNat + b.toNat > 255)

/-- The flag of the subtractions: the minuend is strictly greater (42_alu.md R118, R120). -/
def greaterFlag (minuend subtrahend : Byte) : Bool := decide (minuend.toNat > subtrahend.toNat)

/-- The bit `8xy6` shifts out, bit 0 (42_alu.md R119). -/
def lowBitFlag (a : Byte) : Bool := a.getLsbD 0

/-- The bit `8xyE` shifts out, bit 7 (42_alu.md R121). -/
def highBitFlag (a : Byte) : Bool := a.getLsbD 7

end Sys2Proof.Machine
end

