-- ==== Sys2Proof/Machine/Operands.lean ====
section
/-!
DEFINITION. The operand forms: immediates zero-extended (30_encoding.md R63), the one data addressing mode, base `I` plus a
small offset (43_index_memory.md R136), blocks of registers, and the key predicate (44_io_timers.md R148).
-/

namespace Sys2Proof.Machine

open Sys2Proof

/-- `zext_16(nnn)` (30_encoding.md R63). -/
def immWord (nnn : Imm12) : Word := nnn.setWidth 16

/-- `zext_16(V[x])` (00_scope.md R6). -/
def byteWord (b : Byte) : Word := b.setWidth 16

/-- The effective address `I + k`, computed without wrap-around (43_index_memory.md R136). -/
def State.ea (s : State) (k : Nat) : Nat := s.i.toNat + k

/-- The byte at `I + k` (43_index_memory.md R136). -/
def State.loadByte (s : State) (k : Nat) : Byte := Memory.read s.mem (s.ea k)

/-- The bytes stored from `I` upward (43_index_memory.md R133, R134). -/
def State.storeBlock (s : State) (bytes : List Byte) : State := { s with mem := Memory.writeBlock s.mem (s.ea 0) bytes }

/-- The values `V[0]` to `V[x]` (43_index_memory.md R134). -/
def State.regsUpTo (s : State) (x : RegIdx) : List Byte := s.v.toList.take (x.toNat + 1)

/-- `V[j] <- MemRead(I + j)` for `j = 0 .. x`, the other registers unchanged (43_index_memory.md R135). -/
def State.loadRegsUpTo (s : State) (x : RegIdx) : State :=
  { s with v := Vector.ofFn fun j : Fin 16 => if j.val ≤ x.toNat then s.loadByte j.val else s.v[j.val] }

/-- The three decimal digits, hundreds first (43_index_memory.md R133). -/
def bcdDigits (b : Byte) : List Byte :=
  [BitVec.ofNat 8 (b.toNat / 100), BitVec.ofNat 8 (b.toNat / 10 % 10), BitVec.ofNat 8 (b.toNat % 10)]

/-- `pressed(c)`: the code names a key and its level is 1 (44_io_timers.md R148). -/
def State.pressed (s : State) (c : Byte) : Bool := decide (c.toNat ≤ 15) && s.keys.getLsbD c.toNat

end Sys2Proof.Machine
end

