-- ==== Sys2Proof/Machine/Alu.lean ====
section
/-!
DEFINITION. Register load, arithmetic, logic, shift and random: 42_alu.md R111 to R122. Where an instruction writes `V[15]`
and `V[x]`, the flag is written first and the second statement reads the registers the first left (R110).
-/

namespace Sys2Proof.Machine

open Sys2Proof

/-- `6xkk` (42_alu.md R111). -/
def execLdVxKk (x : RegIdx) (kk : Byte) (s : State) : Result := .next (s.advance.setReg x kk)

/-- `7xkk` (42_alu.md R112): no carry is reported. -/
def execAddVxKk (x : RegIdx) (kk : Byte) (s : State) : Result := .next (s.advance.setReg x (s.reg x + kk))

/-- `8xy0` (42_alu.md R113). -/
def execLdVxVy (x y : RegIdx) (s : State) : Result := .next (s.advance.setReg x (s.reg y))

/-- `8xy1` (42_alu.md R114). -/
def execOrVxVy (x y : RegIdx) (s : State) : Result := .next (s.advance.setReg x (s.reg x ||| s.reg y))

/-- `8xy2` (42_alu.md R115). -/
def execAndVxVy (x y : RegIdx) (s : State) : Result := .next (s.advance.setReg x (s.reg x &&& s.reg y))

/-- `8xy3` (42_alu.md R116). -/
def execXorVxVy (x y : RegIdx) (s : State) : Result := .next (s.advance.setReg x (s.reg x ^^^ s.reg y))

/-- `8xy4` (42_alu.md R117): the sum is taken before the flag is written. -/
def execAddVxVy (x y : RegIdx) (s : State) : Result :=
  let sum := s.reg x + s.reg y
  .next ((s.advance.setFlag (carryFlag (s.reg x) (s.reg y))).setReg x sum)

/-- `8xy5` (42_alu.md R118): the subtraction reads the registers after the flag write. -/
def execSubVxVy (x y : RegIdx) (s : State) : Result :=
  let t := s.advance.setFlag (greaterFlag (s.reg x) (s.reg y))
  .next (t.setReg x (t.reg x - t.reg y))

/-- `8xz6` (42_alu.md R119): the shift reads the register after the flag write. -/
def execShrVx (x : RegIdx) (s : State) : Result :=
  let t := s.advance.setFlag (lowBitFlag (s.reg x))
  .next (t.setReg x (t.reg x >>> 1))

/-- `8xy7` (42_alu.md R120): the subtraction reads the registers after the flag write. -/
def execSubnVxVy (x y : RegIdx) (s : State) : Result :=
  let t := s.advance.setFlag (greaterFlag (s.reg y) (s.reg x))
  .next (t.setReg x (t.reg y - t.reg x))

/-- `8xzE` (42_alu.md R121): the shift reads the register after the flag write. -/
def execShlVx (x : RegIdx) (s : State) : Result :=
  let t := s.advance.setFlag (highBitFlag (s.reg x))
  .next (t.setReg x (t.reg x <<< 1))

/-- `Cxkk` (42_alu.md R122): one fresh byte, a free value (log 9), masked. -/
def execRnd (x : RegIdx) (kk : Byte) (s : State) : Result :=
  let d := s.advance.drawRand
  .next (d.2.setReg x (d.1 &&& kk))

end Sys2Proof.Machine
end

