-- ==== Sys2Proof/Machine/Control.lean ====
section
/-!
DEFINITION. Control flow: 41_control_flow.md R100 to R107. Each meaning is the whole of `Exec` for its instruction
(40_execution_cycle.md R85): `PC` is advanced first.
-/

namespace Sys2Proof.Machine

open Sys2Proof

/-- `00EE` (41_control_flow.md R100). -/
def execRet (s : State) : Result :=
  match s.advance.pop with
  | some (target, t) => .next (t.jump target)
  | none => raiseFault .ret .stackUnderflow s

/-- `1nnn` (41_control_flow.md R101). -/
def execJp (nnn : Imm12) (s : State) : Result := .next (s.advance.jump (immWord nnn))

/-- `2nnn` (41_control_flow.md R102): the pushed value is the advanced `PC`. -/
def execCall (nnn : Imm12) (s : State) : Result :=
  match s.advance.push s.advance.pc with
  | some t => .next (t.jump (immWord nnn))
  | none => raiseFault (.call nnn) .stackOverflow s

/-- `3xkk` (41_control_flow.md R103). -/
def execSeVxKk (x : RegIdx) (kk : Byte) (s : State) : Result := .next (s.advance.skipIf (s.reg x == kk))

/-- `4xkk` (41_control_flow.md R104). -/
def execSneVxKk (x : RegIdx) (kk : Byte) (s : State) : Result := .next (s.advance.skipIf (s.reg x != kk))

/-- `5xyz` (41_control_flow.md R105). -/
def execSeVxVy (x y : RegIdx) (s : State) : Result := .next (s.advance.skipIf (s.reg x == s.reg y))

/-- `9xyz` (41_control_flow.md R106). -/
def execSneVxVy (x y : RegIdx) (s : State) : Result := .next (s.advance.skipIf (s.reg x != s.reg y))

/-- `Bnnn` (41_control_flow.md R107): the sum is not reduced. -/
def execJpV0 (nnn : Imm12) (s : State) : Result := .next (s.advance.jump (immWord nnn + byteWord (s.reg 0)))

end Sys2Proof.Machine
end

