-- ==== Sys2Proof/Machine/Index.lean ====
section
/-!
DEFINITION. The address register and memory: 43_index_memory.md R130 to R135. Every check comes before the first byte is
moved (20_memory.md R44); no access changes `I` (R136).
-/

namespace Sys2Proof.Machine

open Sys2Proof

/-- `Annn` (43_index_memory.md R130). -/
def execLdINnn (nnn : Imm12) (s : State) : Result := .next { s.advance with i := immWord nnn }

/-- `Fx1E` (43_index_memory.md R131): modulo 65536, no mask to 12 bits, no flag. -/
def execAddIVx (x : RegIdx) (s : State) : Result := .next { s.advance with i := s.i + byteWord (s.reg x) }

/-- `Fx29` (43_index_memory.md R132): the whole byte is multiplied. -/
def execLdFVx (x : RegIdx) (s : State) : Result := .next { s.advance with i := byteWord (s.reg x) * 5 }

/-- `Fx33` (43_index_memory.md R133). -/
def execLdBVx (x : RegIdx) (s : State) : Result :=
  if inBounds s.i.toNat 3 then .next (s.advance.storeBlock (bcdDigits (s.reg x)))
  else raiseFault (.ldBVx x) .memoryBoundViolation s

/-- `Fx55` (43_index_memory.md R134). -/
def execLdMiVx (x : RegIdx) (s : State) : Result :=
  if inBounds s.i.toNat (x.toNat + 1) then .next (s.advance.storeBlock (s.regsUpTo x))
  else raiseFault (.ldMiVx x) .memoryBoundViolation s

/-- `Fx65` (43_index_memory.md R135): register `j` is loaded from `I + j`. -/
def execLdVxMi (x : RegIdx) (s : State) : Result :=
  if inBounds s.i.toNat (x.toNat + 1) then .next (s.advance.loadRegsUpTo x)
  else raiseFault (.ldVxMi x) .memoryBoundViolation s

end Sys2Proof.Machine
end

