-- ==== Sys2Proof/Machine/Io.lean ====
section
/-!
DEFINITION. Display, keyboard, timers and the wait: 44_io_timers.md R140 to R147.
-/

namespace Sys2Proof.Machine

open Sys2Proof

/-- `00E0` (44_io_timers.md R140). -/
def execCls (s : State) : Result := .next s.advance.clearDisplay

/-- One column of a sprite row: a set bit toggles its pixel and an erasure is remembered (44_io_timers.md R141 (a), (b)). -/
def drawColumn (x y : Nat) (b : Byte) (acc : State × Bool) (col : Nat) : State × Bool :=
  if b.getLsbD (7 - col) then
    let r := acc.1.setPixel (x + col) y
    (r.1, acc.2 || r.2)
  else acc

/-- One sprite row, bit 7 first (44_io_timers.md R141). -/
def drawRow (x y : Nat) (b : Byte) (acc : State × Bool) : State × Bool :=
  (List.range 8).foldl (drawColumn x y b) acc

/-- A sprite of `n` rows, rows ascending; row `r` is the byte at `I + r` (44_io_timers.md R141). -/
def drawSprite (x y n : Nat) (s : State) : State × Bool :=
  (List.range n).foldl (fun acc row => drawRow x (y + row) (acc.1.loadByte row) acc) (s, false)

/-- `Dxyn` (44_io_timers.md R141): the coordinates are read once, before any write; `V[15]` is written once, last. -/
def execDrw (x y : RegIdx) (n : Nibble) (s : State) : Result :=
  if n.toNat = 0 ∨ inBounds s.i.toNat n.toNat = true then
    let r := drawSprite (s.reg x).toNat (s.reg y).toNat n.toNat s.advance
    .next (r.1.setFlag r.2)
  else raiseFault (.drw x y n) .memoryBoundViolation s

/-- `Ex9E` (44_io_timers.md R142). -/
def execSkp (x : RegIdx) (s : State) : Result := .next (s.advance.skipIf (s.pressed (s.reg x)))

/-- `ExA1` (44_io_timers.md R143). -/
def execSknp (x : RegIdx) (s : State) : Result := .next (s.advance.skipIf (!s.pressed (s.reg x)))

/-- `Fx07` (44_io_timers.md R144). -/
def execLdVxDt (x : RegIdx) (s : State) : Result := .next (s.advance.setReg x s.dt)

/-- `Fx0A` (44_io_timers.md R145): the register is written later, by the key delivery. -/
def execLdVxK (x : RegIdx) (s : State) : Result := .next { s.advance with kx := x, mode := .awaitKey }

/-- `Fx15` (44_io_timers.md R146). -/
def execLdDtVx (x : RegIdx) (s : State) : Result := .next { s.advance with dt := s.reg x }

/-- `Fx18` (44_io_timers.md R147). -/
def execLdStVx (x : RegIdx) (s : State) : Result := .next { s.advance with st := s.reg x }

end Sys2Proof.Machine
end

