-- ==== Sys2Proof/Machine/Unknown.lean ====
section
/-!
DEFINITION. The reserved spaces: a no-operation with one diagnostic event (45_unknown_subopcodes.md R160 to R164).
-/

namespace Sys2Proof.Machine

open Sys2Proof

/-- The common behaviour (45_unknown_subopcodes.md R160): `DIAG_UNKNOWN(a0, op)` and the default advance. -/
def unknownNop (i : Instr) (s : State) : Result := .next (s.advance.emit (.diagUnknown s.pc (encode i)))

/-- `UNK_0` (45_unknown_subopcodes.md R161). -/
def execUnk0 (nnn : Imm12) (s : State) : Result := unknownNop (.unk0 nnn) s

/-- `UNK_8` (45_unknown_subopcodes.md R162). -/
def execUnk8 (x y : RegIdx) (n : Nibble) (s : State) : Result := unknownNop (.unk8 x y n) s

/-- `UNK_E` (45_unknown_subopcodes.md R163). -/
def execUnkE (x : RegIdx) (kk : Byte) (s : State) : Result := unknownNop (.unkE x kk) s

/-- `UNK_F` (45_unknown_subopcodes.md R164). -/
def execUnkF (x : RegIdx) (kk : Byte) (s : State) : Result := unknownNop (.unkF x kk) s

end Sys2Proof.Machine
end

