-- ==== Sys2Proof/Machine/HostPort.lean ====
section
/-!
DEFINITION. The host transactions that are no frame step, and the keyboard's level changes (10_state.md R30). Each is
performed between frame steps, in one step of the model.
-/

namespace Sys2Proof.Machine

open Sys2Proof

/-- `RESET` (70_reset_and_hazards.md R200): every piece of core state takes the value of 10_state.md R26. The collaborators,
the configuration and the host's script are untouched, and no command is issued. -/
def hostReset (s : State) : State :=
  { s with
    mem := [], v := Vector.replicate 16 0, i := 0, pc := 0x200, stack := Vector.replicate 16 0, sp := 0,
    dt := 0, st := 0, mode := .running, kx := 0, flt := .none, fltAddr := 0, fltOp := 0, answer := none }

/-- `LOAD_FONT` (70_reset_and_hazards.md R203): the 80 font bytes from 0x000 upward. -/
def hostLoadFont (s : State) : State :=
  { s with mem := Memory.writeBlock s.mem fontBase s.cfg.font.toList, answer := none }

/-- `LOAD_PROG` (70_reset_and_hazards.md R204): all the bytes from 0x200 upward, or none and the answer `rejected`. -/
def hostLoadProg (bytes : List Byte) (s : State) : State :=
  if inBounds progBase bytes.length then
    { s with mem := Memory.writeBlock s.mem progBase bytes, answer := some .ok }
  else { s with answer := some .rejected }

/-- `KEY_DOWN(k)` (40_execution_cycle.md R88): it acts only on a core that is waiting and not faulted. -/
def hostKeyDown (k : Nibble) (s : State) : State :=
  if s.flt = .none ∧ s.mode = .awaitKey then
    { s.setReg s.kx (k.setWidth 8) with mode := .running, answer := none }
  else { s with answer := none }

/-- The keyboard sets the level of key `k` (60_exceptions.md R188); the core does not notice (log 14). -/
def keyboardLevel (k : Nibble) (down : Bool) (s : State) : State :=
  { s with
    keys := if down then s.keys ||| BitVec.twoPow 16 k.toNat else s.keys &&& ~~~(BitVec.twoPow 16 k.toNat) }

/-- What a keyboard and a host do when key `k` goes down (60_exceptions.md R188): the level, then the transaction. -/
def pressKey (k : Nibble) : List HostEvent := [.keyLevel k true, .keyDown k]

/-- What a keyboard does when key `k` is released (60_exceptions.md R188): the level only. -/
def releaseKey (k : Nibble) : List HostEvent := [.keyLevel k false]

/-- The boot sequence the host performs before the first frame step (70_reset_and_hazards.md R202). -/
def bootSequence (rom : List Byte) : List HostEvent := [.reset, .loadFont, .loadProg rom]

end Sys2Proof.Machine
end

