-- ==== Sys2Proof/Machine/Frame.lean ====
section
/-!
DEFINITION. The frame step in the finer steps that 40_execution_cycle.md R91 allows: `SPEED` slots, then one end-of-frame
step, with the slot counter `slot`; and the plan of the next step, which says what that step does.
-/

namespace Sys2Proof.Machine

open Sys2Proof

/-- The check of `Fetch`, `PC + 1 <= 0xFFF` (40_execution_cycle.md R82). -/
def State.canFetch (s : State) : Bool := inBounds s.pc.toNat 2

/-- The word at `PC`, big-endian (20_memory.md R41). -/
def State.fetchWord (s : State) : Word :=
  packWord (Memory.read s.mem s.pc.toNat) (Memory.read s.mem (s.pc.toNat + 1))

/-- The frame step ends by a fault: nothing more of it is performed (40_execution_cycle.md R89). -/
def State.faultFrame (s : State) : State := { s with slot := 0, answer := some (.fault s.flt) }

/-- A slot is over: the frame goes on to the next one, or ends at once if a fault was latched (40_execution_cycle.md R81,
R89). -/
def State.finishSlot (s : State) : State := if s.flt = .none then { s with slot := s.slot + 1 } else s.faultFrame

/-- The end of a frame that no fault cut short: timer update if running, speaker update, render request, answer `done`
(40_execution_cycle.md R80, R83, R84). -/
def State.endFrame (s : State) : State :=
  let t := if s.mode = .running then s.updateTimers else s
  { t.updateSpeaker.render with slot := 0, answer := some .done }

/-- `Fetch` fails: the fault is latched with `FLT_ADDR = PC`, `FLT_OP = 0`, and `PC` stays (40_execution_cycle.md R82). -/
def State.fetchFault (s : State) : State := s.takeFault .memoryBoundViolation s.pc 0

/-- What the next step does. -/
inductive Plan where
  /-- It stops. -/
  | halt (r : Fault)
  /-- It goes to the state given without executing an instruction. -/
  | move (t : State)
  /-- It executes the instruction in the state given, as one slot. -/
  | run (i : Instr) (t : State)
deriving DecidableEq, Repr

/-- The next sub-step of a `FRAME_TICK` (40_execution_cycle.md R80 to R82, R89 to R91). -/
def planTick (s : State) : Plan :=
  if s.cfg.speed = 0 then .halt .speedZero
  else if s.flt ≠ .none then .move s.faultFrame
  else if s.slot < s.cfg.speed then
    match s.mode with
    | .awaitKey => .move s.finishSlot
    | .running => if s.canFetch then .run (decode s.fetchWord) s else .move s.fetchFault.finishSlot
  else .move s.endFrame

/-- The next step: while a frame step is open, its next sub-step; between frame steps, the host's next transaction, and
`FRAME_TICK` when the host's script has ended (00_scope.md R8, log 2). -/
def plan (s : State) : Plan :=
  if s.slot = 0 then
    match s.pending with
    | [] => planTick s
    | .frameTick :: rest => planTick { s with pending := rest }
    | .reset :: rest => .move (hostReset { s with pending := rest })
    | .loadFont :: rest => .move (hostLoadFont { s with pending := rest })
    | .loadProg bytes :: rest => .move (hostLoadProg bytes { s with pending := rest })
    | .keyDown k :: rest => .move (hostKeyDown k { s with pending := rest })
    | .keyLevel k down :: rest => .move (keyboardLevel k down { s with pending := rest })
  else planTick s

/-- The state changed no more than it takes for the next step to fetch and run an instruction: identity on a state that does
so anyway, as `State.reset` is (log 3). -/
def State.readyToFetch (s : State) : State :=
  let speed := if s.cfg.speed = 0 then 1 else s.cfg.speed
  let slot := if s.slot < speed then s.slot else 0
  { s with
    cfg := { s.cfg with speed := speed }
    flt := .none
    mode := .running
    slot := slot
    pending := if slot = 0 then [] else s.pending
    pc := if s.canFetch then s.pc else 0x200 }

/-- The word stored where the next fetch reads it, high byte at the lower address (20_memory.md R41). -/
def State.placeWord (s : State) (op : Word) : State :=
  { s with mem := Memory.writeBlock s.mem s.pc.toNat [highByte op, lowByte op] }

end Sys2Proof.Machine
end

