-- ==== Sys2Proof/Machine/Step.lean ====
section
/-!
DEFINITION. One step of the machine: it does what `plan` says.
-/

namespace Sys2Proof.Machine

open Sys2Proof

/-- One sub-step of a frame step, or one host transaction (00_scope.md R8, 40_execution_cycle.md R91). -/
def step (s : State) : Host.Outcome State Fault Refusal :=
  match plan s with
  | .halt r => .fault r
  | .move t => .next t
  | .run i t =>
    match exec i t with
    | .next t' => .next t'.finishSlot
    | .fault r => .fault r
    | .refused r => .refused r

/-- `s` with the instruction whose bits are `w` stored where the next step fetches (log 3). -/
def State.withFetchWord (s : State) (nbits w : Nat) : State := s.readyToFetch.placeWord (tableWord nbits w)

end Sys2Proof.Machine
end

