-- ==== Sys2Proof/Machine/Atomic.lean ====
section
/-!
DEFINITION. `FRAME_TICK` as ONE transaction, written from the pseudocode of 40_execution_cycle.md R80. `step` performs it in
the finer steps of R91; that both have the same outcome is a statement.
-/

namespace Sys2Proof.Machine

open Sys2Proof

/-- One slot of the batch: if `MODE = Running`, `Fetch` then `Exec`, either of which may latch a fault
(40_execution_cycle.md R80, R81). -/
def slotOnce (s : State) : Result :=
  match s.mode with
  | .awaitKey => .next s
  | .running => if s.canFetch then exec (decode s.fetchWord) s else .next s.fetchFault

/-- The instruction batch of `n` slots; a latched fault ends it (40_execution_cycle.md R81, R89). -/
def batch : Nat → State → Result
  | 0, s => .next s
  | n + 1, s =>
    match slotOnce s with
    | .next t => if t.flt = .none then batch n t else .next t
    | .fault r => .fault r
    | .refused r => .refused r

/-- `FrameTick()` of 40_execution_cycle.md R80. -/
def frameTick (s : State) : Result :=
  if s.flt ≠ .none then .next s.faultFrame
  else
    match batch s.cfg.speed s with
    | .next t => .next (if t.flt = .none then t.endFrame else t.faultFrame)
    | .fault r => .fault r
    | .refused r => .refused r

end Sys2Proof.Machine
end

