-- ==== Sys2Proof/Safety.lean ====
section
/-!
DEFINITION. The terms claims are made in: the invariant of reachable states (10_state.md R27), a safe run (60_exceptions.md
R176), which instruction writes what (10_state.md R28), which bytes it leaves in memory (20_memory.md R46), and which
instruction faults when (60_exceptions.md R170).
-/

namespace Sys2Proof.Machine

open Sys2Proof

/-- What holds of every state reachable from reset: the bounds of 10_state.md R27, the canonical form of memory, and the
model's slot counter within the frame. -/
structure State.Inv (s : State) : Prop where
  /-- Memory is in canonical form, so every listed address exists. -/
  memory : Memory.wf s.mem
  /-- `PC <= 0x10FE` (10_state.md R27). -/
  pcBound : s.pc.toNat ≤ 0x10FE
  /-- Every occupied stack slot holds a value up to 0x1000 (10_state.md R27). -/
  stackBound : ∀ j : Fin 16, j.val < s.sp.val → s.stack[j.val].toNat ≤ 0x1000
  /-- `SPEED >= 1` (10_state.md R23). -/
  speedPositive : 1 ≤ s.cfg.speed
  /-- The slot counter counts slots of one frame. -/
  slotBound : s.slot ≤ s.cfg.speed
  /-- A fault has ended the frame step (40_execution_cycle.md R89). -/
  faultClosesFrame : s.flt ≠ .none → s.slot = 0
  /-- No word raises `DecodeError` (30_encoding.md R69). -/
  noDecodeError : s.flt ≠ .decodeError

/-- A state of a run without a fault (60_exceptions.md R176). -/
def State.healthy (s : State) : Prop := s.flt = .none

/-- The next step is a sub-step of a `FRAME_TICK`: one is open, or the host goes on with one (log 2). -/
def State.ticksNext (s : State) : Prop := s.slot = 0 → s.pending = [] ∨ s.pending.head? = some .frameTick

/-- The state can run the instruction at `PC` in its next step: not faulted, running, a slot left in the frame, and the word
inside memory (40_execution_cycle.md R81, R82). -/
def State.runsNext (s : State) : Prop :=
  s.ticksNext ∧ s.flt = .none ∧ s.mode = .running ∧ s.slot < s.cfg.speed ∧ s.pc.toNat + 1 ≤ 0xFFF

/-- The state with the opening `FRAME_TICK` taken from the host's script, where there is one to take. -/
def State.opened (s : State) : State :=
  if s.slot = 0 then { s with pending := s.pending.tail } else s

/-- What an instruction may write besides `PC` (the columns "writes" and "port activity" of 10_state.md R28). -/
structure Writes where
  /-- General registers. -/
  regs : List RegIdx := []
  /-- `I`. -/
  index : Bool := false
  /-- Memory: `len` bytes from an address. -/
  memFrom : Nat := 0
  /-- How many bytes of memory. -/
  memLen : Nat := 0
  /-- `SP` and `STACK`. -/
  stack : Bool := false
  /-- `DT`. -/
  dt : Bool := false
  /-- `ST`. -/
  st : Bool := false
  /-- `MODE` and `KX`. -/
  wait : Bool := false
  /-- `FLT`, `FLT_ADDR`, `FLT_OP`. -/
  fault : Bool := false
  /-- The display's framebuffer. -/
  display : Bool := false
  /-- The output trace. -/
  trace : Bool := false
  /-- The count of random bytes. -/
  draws : Bool := false

/-- `t` differs from `s` at most in `PC` and in what `w` names. Memory is compared through the read of one byte. -/
structure Frame (w : Writes) (s t : State) : Prop where
  regs : ∀ r : RegIdx, r ∉ w.regs → t.reg r = s.reg r
  index : w.index = false → t.i = s.i
  memory : ∀ a : Nat, ¬ (w.memFrom ≤ a ∧ a < w.memFrom + w.memLen) → Memory.read t.mem a = Memory.read s.mem a
  stack : w.stack = false → t.sp = s.sp ∧ t.stack = s.stack
  dt : w.dt = false → t.dt = s.dt
  st : w.st = false → t.st = s.st
  wait : w.wait = false → t.mode = s.mode ∧ t.kx = s.kx
  fault : w.fault = false → t.flt = s.flt ∧ t.fltAddr = s.fltAddr ∧ t.fltOp = s.fltOp
  display : w.display = false → t.fb = s.fb
  trace : w.trace = false → t.trace = s.trace
  draws : w.draws = false → t.draws = s.draws
  surface : t.surface = s.surface
  keys : t.keys = s.keys
  tone : t.tone = s.tone
  cfg : t.cfg = s.cfg
  slot : t.slot = s.slot
  pending : t.pending = s.pending
  answer : t.answer = s.answer

/-- The fault an instruction raises in a state, by the conditions of 60_exceptions.md R170; `none` where it completes. -/
def faultOf (i : Instr) (s : State) : FaultCode :=
  match i with
  | .ret => if s.sp.val = 0 then .stackUnderflow else .none
  | .call _ => if s.sp.val = 16 then .stackOverflow else .none
  | .drw _ _ n => if n.toNat ≥ 1 ∧ s.i.toNat + n.toNat - 1 > 0xFFF then .memoryBoundViolation else .none
  | .ldBVx _ => if s.i.toNat + 2 > 0xFFF then .memoryBoundViolation else .none
  | .ldMiVx x | .ldVxMi x => if s.i.toNat + x.toNat > 0xFFF then .memoryBoundViolation else .none
  | .cls | .jp _ | .seVxKk _ _ | .sneVxKk _ _ | .seVxVy _ _ _ | .ldVxKk _ _ | .addVxKk _ _ | .ldVxVy _ _ | .orVxVy _ _
  | .andVxVy _ _ | .xorVxVy _ _ | .addVxVy _ _ | .subVxVy _ _ | .shrVx _ _ | .subnVxVy _ _ | .shlVx _ _ | .sneVxVy _ _ _
  | .ldINnn _ | .jpV0 _ | .rnd _ _ | .skp _ | .sknp _ | .ldVxDt _ | .ldVxK _ | .ldDtVx _ | .ldStVx _ | .addIVx _ | .ldFVx _
  | .unk0 _ | .unk8 _ _ _ | .unkE _ _ | .unkF _ _ => .none

/-- The registers `V[0]` to `V[x]`. -/
def regsThrough (x : RegIdx) : List RegIdx := (List.range (x.toNat + 1)).map (BitVec.ofNat 4)

/-- What a completing instruction writes (10_state.md R28). -/
def writesOf (i : Instr) (s : State) : Writes :=
  match i with
  | .cls => { display := true, trace := true }
  | .ret | .call _ => { stack := true }
  | .jp _ | .jpV0 _ | .seVxKk _ _ | .sneVxKk _ _ | .seVxVy _ _ _ | .sneVxVy _ _ _ | .skp _ | .sknp _ => {}
  | .ldVxKk x _ | .addVxKk x _ | .ldVxVy x _ | .orVxVy x _ | .andVxVy x _ | .xorVxVy x _ | .ldVxDt x => { regs := [x] }
  | .addVxVy x _ | .subVxVy x _ | .shrVx x _ | .subnVxVy x _ | .shlVx x _ => { regs := [x, vf] }
  | .rnd x _ => { regs := [x], draws := true }
  | .ldINnn _ | .addIVx _ | .ldFVx _ => { index := true }
  | .drw _ _ _ => { regs := [vf], display := true, trace := true }
  | .ldVxK _ => { wait := true }
  | .ldDtVx _ => { dt := true }
  | .ldStVx _ => { st := true }
  | .ldBVx _ => { memFrom := s.i.toNat, memLen := 3 }
  | .ldMiVx x => { memFrom := s.i.toNat, memLen := x.toNat + 1 }
  | .ldVxMi x => { regs := regsThrough x }
  | .unk0 _ | .unk8 _ _ _ | .unkE _ _ | .unkF _ _ => { trace := true }

/-- The bytes a completing instruction stores from `I` upward: the three decimal digits of `V[x]`, or `V[0]` to `V[x]`
(43_index_memory.md R133, R134). -/
def storesOf (i : Instr) (s : State) : List Byte :=
  match i with
  | .ldBVx x => [100, 10, 1].map fun p => BitVec.ofNat 8 ((s.reg x).toNat / p % 10)
  | .ldMiVx x => (List.range (x.toNat + 1)).map fun j => s.reg (BitVec.ofNat 4 j)
  | .cls | .ret | .jp _ | .call _ | .seVxKk _ _ | .sneVxKk _ _ | .seVxVy _ _ _ | .ldVxKk _ _ | .addVxKk _ _ | .ldVxVy _ _
  | .orVxVy _ _ | .andVxVy _ _ | .xorVxVy _ _ | .addVxVy _ _ | .subVxVy _ _ | .shrVx _ _ | .subnVxVy _ _ | .shlVx _ _
  | .sneVxVy _ _ _ | .ldINnn _ | .jpV0 _ | .rnd _ _ | .drw _ _ _ | .skp _ | .sknp _ | .ldVxDt _ | .ldVxK _ | .ldDtVx _
  | .ldStVx _ | .addIVx _ | .ldFVx _ | .ldVxMi _ | .unk0 _ | .unk8 _ _ _ | .unkE _ _ | .unkF _ _ => []

/-- The byte that memory holds at `a` after a completing instruction: the stored byte where the store covers `a`, the old
byte elsewhere (20_memory.md R46). -/
def byteAfter (i : Instr) (s : State) (a : Nat) : Byte :=
  if s.i.toNat ≤ a then (storesOf i s).getD (a - s.i.toNat) (Memory.read s.mem a) else Memory.read s.mem a

/-- `n` steps, stopping where a step does not answer a next state. -/
def steps : Nat → State → Result
  | 0, s => .next s
  | n + 1, s =>
    match step s with
    | .next t => steps n t
    | .fault r => .fault r
    | .refused r => .refused r

/-- Bit `c` (counted from the left) of row `r` of the sprite at `I` is set (44_io_timers.md R141 (a), (b)). -/
def spriteBit (s : State) (r c : Nat) : Bool := (s.loadByte r).getLsbD (7 - c)

/-- Some set bit of the `n`-row sprite drawn at `(x0, y0)` falls on the pixel, wrapping at the edges
(44_io_timers.md R141 (c)). -/
def spriteCovers (s : State) (x0 y0 n : Nat) (px : Fin 64) (py : Fin 32) : Prop :=
  ∃ r c : Nat, r < n ∧ c < 8 ∧ spriteBit s r c = true ∧ (x0 + c) % 64 = px.val ∧ (y0 + r) % 32 = py.val

/-- The commands of one sprite in the order issued, one per set bit, each with the answer that the framebuffer before the
instruction gives (44_io_timers.md R141 (d)). -/
def spriteCommands (s : State) (x0 y0 n : Nat) : List PortEvent :=
  (List.range n).flatMap fun r =>
    ((List.range 8).filter (spriteBit s r)).map fun c =>
      .dispSetPixel (BitVec.ofNat 9 (x0 + c)) (BitVec.ofNat 9 (y0 + r))
        (Screen.pixel s.fb (wrapCol (x0 + c)) (wrapRow (y0 + r)))

end Sys2Proof.Machine
end

