-- ==== Sys2Proof/Certificates/Slice0/Obligations.lean ====
section
/-!
DEFINITION. The statements for the provers, each about the spec's numbered rules.
-/

open Sys2Proof Sys2Proof.Machine

/-- For every well-formed instruction, of all 38 rows of the table and with every operand at every value, decode of encode
is the instruction itself. The undecoded fields are carried by the model's own choice (log 13); the keys of the
decoder are the spec's decisions D11 and D12 (log 16).
(30_encoding.md R64, 30_encoding.md R66, 30_encoding.md R67) -/
def Obligations.DecodeAfterEncode : Prop :=
  ∀ i : Instr, i.wellFormed = true → decode (encode i) = i

/-- The decoder is total: every 16-bit word decodes to a well-formed term, and encoding that term gives the word back, so
no word is illegal and no two words decode to the same term. The terms carry the nibbles that are not decoded by the
model's own choice (log 13): two words that differ in such a nibble alone decode to two terms and execute identically
(R68). The keys of the decoder are the spec's decisions D11 and D12 (log 16).
(30_encoding.md R64, 30_encoding.md R67, 30_encoding.md R68, 30_encoding.md R69) -/
def Obligations.EncodeAfterDecode : Prop :=
  ∀ op : Word, (decode op).wellFormed = true ∧ encode (decode op) = op

/-- The words of 95_test_vectors.md 2.1 decode as listed there, E1 with its six fields: E1 8AB4; E2 D125; E3 1200; E5
00E0, 00EE, 00E1, 01E0, 0000; E6 5121, 912F; E7 8128, 812D, 812F, 812E; E8 E19E, E1A1, E19F, E100; E9 F107, F165,
F175, F100, F1FF (E4 has no word). That 00E1 and 01E0 are UNK_0, and which bits of families 8, E and F are compared,
is the spec's decision D12; that the low nibble of families 5 and 9 and the middle one of 812E are not is its decision
D11 (log 16), and that the term carries them is the model's own (log 13).
(30_encoding.md R61, 30_encoding.md R64, 30_encoding.md R65, 95_test_vectors.md 2.1 E1 to E3, E5 to E9, 92_eei_decisions.md D11, 92_eei_decisions.md D12) -/
def Obligations.SpecWordsDecode : Prop :=
  (fieldFam 0x8AB4 = 0x8 ∧ fieldX 0x8AB4 = 0xA ∧ fieldY 0x8AB4 = 0xB ∧ fieldN 0x8AB4 = 0x4 ∧ fieldKk 0x8AB4 = 0xB4 ∧
      fieldNnn 0x8AB4 = 0xAB4) ∧
    (decode 0x8AB4 = .addVxVy 0xA 0xB ∧ decode 0xD125 = .drw 0x1 0x2 0x5 ∧ decode 0x1200 = .jp 0x200) ∧
    (decode 0x00E0 = .cls ∧ decode 0x00EE = .ret ∧ decode 0x00E1 = .unk0 0x0E1 ∧ decode 0x01E0 = .unk0 0x1E0 ∧
      decode 0x0000 = .unk0 0x000) ∧
    (decode 0x5121 = .seVxVy 0x1 0x2 0x1 ∧ decode 0x912F = .sneVxVy 0x1 0x2 0xF) ∧
    (decode 0x8128 = .unk8 0x1 0x2 0x8 ∧ decode 0x812D = .unk8 0x1 0x2 0xD ∧ decode 0x812F = .unk8 0x1 0x2 0xF ∧
      decode 0x812E = .shlVx 0x1 0x2) ∧
    (decode 0xE19E = .skp 0x1 ∧ decode 0xE1A1 = .sknp 0x1 ∧ decode 0xE19F = .unkE 0x1 0x9F ∧
      decode 0xE100 = .unkE 0x1 0x00) ∧
    (decode 0xF107 = .ldVxDt 0x1 ∧ decode 0xF165 = .ldVxMi 0x1 ∧ decode 0xF175 = .unkF 0x1 0x75 ∧
      decode 0xF100 = .unkF 0x1 0x00 ∧ decode 0xF1FF = .unkF 0x1 0xFF)

/-- The fetched word is MEM[PC] * 256 + MEM[PC+1]; its bits 15:8 are MEM[PC] and its bits 7:0 are MEM[PC+1], in every
state (no control switches the order).
(R41) -/
def Obligations.FetchIsBigEndian : Prop :=
  ∀ s : State,
    s.fetchWord.toNat = (Memory.read s.mem s.pc.toNat).toNat * 256 + (Memory.read s.mem (s.pc.toNat + 1)).toNat ∧
    s.fetchWord.extractLsb' 8 8 = Memory.read s.mem s.pc.toNat ∧
    s.fetchWord.extractLsb' 0 8 = Memory.read s.mem (s.pc.toNat + 1)

/-- In a state whose next step is an instruction slot (not faulted, running, a slot left, PC + 1 inside memory), where the
two bytes at PC decode to i, step is exec of i, and after it the slot is counted, or, if a fault was latched, the
frame step ends with the answer fault(code). Opening a FRAME_TICK takes it from the host's script (log 2); the slot
counter is R91's (log 1); that a latched fault ends the frame step is the spec's decision D8 (log 16).
(40_execution_cycle.md R80, 40_execution_cycle.md R81, 40_execution_cycle.md R85, 40_execution_cycle.md R89, 40_execution_cycle.md R91) -/
def Obligations.StepRunsDecodedInstruction : Prop :=
  ∀ (s : State) (i : Instr), s.runsNext →
    decodeBytes [Memory.read s.mem s.pc.toNat, Memory.read s.mem (s.pc.toNat + 1)] = .ok (i, []) →
    step s =
      (match exec i s.opened with
      | .next t =>
        .next (if t.flt = .none then { t with slot := t.slot + 1 }
          else { t with slot := 0, answer := some (.fault t.flt) })
      | .fault r => .fault r
      | .refused r => .refused r)

/-- The model's own loading aid (log 3): in the state it gives, the next step is an instruction slot and the fetched word
decodes to what the table's bits decode to; in the state right after reset it changes memory only.
(20_memory.md R41, 40_execution_cycle.md R82) -/
def Obligations.PlacedWordRunsNext : Prop :=
  (∀ (s : State) (w : Nat), (s.withFetchWord 16 w).runsNext ∧
      decodeTableWord 16 w = some (decode (s.withFetchWord 16 w).fetchWord)) ∧
    ∀ w : Nat, { State.reset.withFetchWord 16 w with mem := State.reset.mem } = State.reset

/-- With PC + 1 > 0xFFF in an instruction slot, the step latches MemoryBoundViolation with FLT_ADDR = PC and FLT_OP = 0,
ends the frame step with fault(4), and changes nothing else. Rests on the spec's decisions D6 and D8 (log 16).
(20_memory.md R44, 40_execution_cycle.md R82, 92_eei_decisions.md D6) -/
def Obligations.FetchAboveMemoryLatches : Prop :=
  ∀ s : State, s.ticksNext → s.flt = .none → s.mode = .running → s.slot < s.cfg.speed → 0xFFF < s.pc.toNat + 1 →
    step s = .next { s.opened with
      flt := .memoryBoundViolation, fltAddr := s.pc, fltOp := 0, slot := 0,
      answer := some (.fault .memoryBoundViolation) }

/-- With MODE = AwaitKey and no fault, a slot of the frame step only counts as passed: nothing is fetched and nothing else
changes. The slot counter is R91's (log 1).
(40_execution_cycle.md R81) -/
def Obligations.WaitingSlotDoesNothing : Prop :=
  ∀ s : State, s.ticksNext → s.flt = .none → s.mode = .awaitKey → s.slot < s.cfg.speed →
    step s = .next { s.opened with slot := s.slot + 1 }

/-- When all slots have run without a fault, the step decrements DT and ST by 1, never below 0, if and only if MODE =
Running, then issues SPK_PLAY(440) if the new ST is above 0 and SPK_STOP otherwise, then DISP_RENDER, which copies the
framebuffer to the surface, and answers done. Nothing else changes. The one speaker command per frame is the spec's
decision D25 (log 16).
(40_execution_cycle.md R80, 40_execution_cycle.md R83, 40_execution_cycle.md R84, 60_exceptions.md R187) -/
def Obligations.EndOfFrameStep : Prop :=
  ∀ s : State, s.flt = .none → 1 ≤ s.cfg.speed → s.slot = s.cfg.speed →
    ∃ t : State, step s = .next t ∧
      t.dt.toNat = (if s.mode = .running then s.dt.toNat - 1 else s.dt.toNat) ∧
      t.st.toNat = (if s.mode = .running then s.st.toNat - 1 else s.st.toNat) ∧
      t.trace = s.trace ++ [if t.st.toNat > 0 then .spkPlay 440 else .spkStop, .dispRender] ∧
      t.tone = decide (t.st.toNat > 0) ∧ t.surface = s.fb ∧ t.slot = 0 ∧ t.answer = some .done ∧
      { t with dt := s.dt, st := s.st, traceRev := s.traceRev, tone := s.tone, surface := s.surface,
               slot := s.slot, answer := s.answer } = s

/-- With FLT non-zero a frame step changes nothing: no instruction, no timer, no speaker command, no render; its answer is
fault(FLT). Rests on the spec's decision D8 (log 16).
(40_execution_cycle.md R89, 60_exceptions.md R176, 92_eei_decisions.md D8) -/
def Obligations.FaultedFrameTickDoesNothing : Prop :=
  ∀ s : State, s.ticksNext → s.flt ≠ .none → 1 ≤ s.cfg.speed →
    step s = .next { s.opened with slot := 0, answer := some (.fault s.flt) }

/-- From any state with no frame step open whose next transaction is a FRAME_TICK, asked for by the host's script or
performed because the script has ended (log 2), some number n of steps, at most SPEED + 1, reaches exactly the outcome
of the one-transaction FrameTick of R80 on the state with that FRAME_TICK taken from the script; and after each k < n
of them the frame is open at slot k, and for k > 0 the rest of the script and the key levels stand as they did, so no
host transaction falls between. The split and its slot counter are the model's (log 1); that a fault ends the frame
step is the spec's decision D8, that transactions never overlap is its decision D21 (log 16).
(40_execution_cycle.md R80, 40_execution_cycle.md R81, 40_execution_cycle.md R89, 40_execution_cycle.md R91, 00_scope.md R8, 92_eei_decisions.md D8, 92_eei_decisions.md D21) -/
def Obligations.SplitFrameTickIsAtomic : Prop :=
  ∀ s : State, s.slot = 0 → s.ticksNext → 1 ≤ s.cfg.speed →
    ∃ n : Nat, 1 ≤ n ∧ n ≤ s.cfg.speed + 1 ∧ steps n s = frameTick s.opened ∧
      ∀ k : Nat, k < n → ∃ u : State, steps k s = .next u ∧ u.slot = k ∧
        (0 < k → u.pending = s.opened.pending ∧ u.keys = s.keys)

/-- With MODE = AwaitKey and FLT = 0 the frame step, as one transaction, changes no state of the core (the timers are
frozen) and issues exactly two commands: the speaker command for the current ST, then DISP_RENDER. The one speaker
command per frame is the spec's decision D25 (log 16).
(40_execution_cycle.md R90, 60_exceptions.md R193) -/
def Obligations.WaitingFrameOnlyRefreshes : Prop :=
  ∀ s : State, s.flt = .none → s.mode = .awaitKey →
    ∃ t : State, frameTick s = .next t ∧
      t.trace = s.trace ++ [if s.st.toNat > 0 then .spkPlay 440 else .spkStop, .dispRender] ∧
      t.answer = some .done ∧
      { t with traceRev := s.traceRev, tone := s.tone, surface := s.surface, slot := s.slot, answer := s.answer } = s

/-- From every state that meets the invariant (memory canonical with every listed address below 4096, PC <= 0x10FE,
occupied stack slots <= 0x1000, SPEED >= 1, slot counter within the frame, a faulted core with no frame open, no
DecodeError), whatever the host does next, a next state meets it. The bounds are R27's and rest on the spec's
decisions D3, D5 and D6, that a fault closes the frame on D8 (log 16); the slot counter is log 1.
(10_state.md R27, 30_encoding.md R69, 20_memory.md R44) -/
def Obligations.StepKeepsInvariant : Prop :=
  ∀ s t : State, s.Inv → step s = .next t → t.Inv

/-- For every configuration with SPEED >= 1 and every framebuffer content, the constructed machine meets the invariant; so
does State.reset. That FLT = 0 after reset is the spec's decision D27 (log 16); the defaults of State.reset are logs
4, 5 and 6, and the slot counter is log 1.
(10_state.md R26, 10_state.md R27) -/
def Obligations.ConstructionMeetsInvariant : Prop :=
  (∀ (cfg : Config) (fb0 : Screen), 1 ≤ cfg.speed → (State.construct cfg fb0).Inv) ∧ State.reset.Inv

/-- For every state with SPEED >= 1, whatever word lies at PC and whatever the host does next, step answers a next state:
it neither faults nor refuses. That a fault of the spec is a next state of the model is log 12, with the spec's
decision D8 (R174, log 16); what that state is, FaultsExactlyWhenListed and UnknownIsDiagnosedNop say.
(60_exceptions.md R174, 45_unknown_subopcodes.md R160, 30_encoding.md R69, 92_eei_decisions.md D8) -/
def Obligations.EveryStepAnswersNext : Prop :=
  ∀ s : State, 1 ≤ s.cfg.speed → ∃ t : State, step s = .next t

/-- Every memory cell reads 0, every V is 0, I = 0, PC = 0x200, SP = 0, DT = ST = 0, MODE = Running, KX = 0, FLT =
FLT_ADDR = FLT_OP = 0, no command on the trace. The values of KX and the fault record are the spec's own decision D27,
and that reset issues no command is its decision D17 (log 16); that the trace is held in State is the model's (log
11).
(10_state.md R26, 92_eei_decisions.md D17, 92_eei_decisions.md D27) -/
def Obligations.ResetValues : Prop :=
  (∀ a : Nat, Memory.read State.reset.mem a = 0) ∧ (∀ r : RegIdx, State.reset.reg r = 0) ∧
    State.reset.i = 0 ∧ State.reset.pc = 0x200 ∧ State.reset.sp = 0 ∧ State.reset.dt = 0 ∧ State.reset.st = 0 ∧
    State.reset.mode = .running ∧ State.reset.kx = 0 ∧ State.reset.flt.code = 0 ∧ State.reset.fltAddr = 0 ∧
    State.reset.fltOp = 0 ∧ State.reset.trace = []

/-- From any state between frame steps, faulted or waiting too, the RESET transaction gives the constructed core with the
same configuration; framebuffer, surface, key levels, tone, random source and trace are untouched. That no
collaborator is told is the spec's decision D17, that RESET is a transaction of its own D20, that it leaves a fault D8
(log 16); the slots of the emptied stack are unspecified (log 10).
(70_reset_and_hazards.md R200, 60_exceptions.md R178, 92_eei_decisions.md D17) -/
def Obligations.ResetTransaction : Prop :=
  ∀ (s : State) (rest : List HostEvent), s.slot = 0 → s.pending = .reset :: rest →
    step s = .next { State.construct s.cfg s.fb with
      surface := s.surface, keys := s.keys, tone := s.tone, draws := s.draws, traceRev := s.traceRev, pending := rest }

/-- LOAD_FONT writes byte j of glyph d at address 5*d + j for d = 0..15 and j = 0..4, leaves every address from 80 upward
as it was, and changes no register; performed again it rewrites the same bytes. That it writes memory only is the
spec's decision D20 (log 16); FONT is whatever the configuration holds (log 5), and that no answer is left is log 11.
(70_reset_and_hazards.md R203, 92_eei_decisions.md D20) -/
def Obligations.LoadFontWritesGlyphs : Prop :=
  ∀ (s : State) (rest : List HostEvent), s.slot = 0 → s.pending = .loadFont :: rest →
    ∃ t : State, step s = .next t ∧
      (∀ (d j : Nat) (h : 5 * d + j < 80), j < 5 → Memory.read t.mem (5 * d + j) = s.cfg.font[5 * d + j]) ∧
      (∀ a : Nat, 80 ≤ a → Memory.read t.mem a = Memory.read s.mem a) ∧
      { t with mem := s.mem, pending := s.pending, answer := s.answer } = s

/-- If len + 0x200 > 4096 the answer is rejected and nothing is written; otherwise the answer is ok, byte i lies at 0x200
+ i, every other byte of memory keeps its value, and no register changes. That it is all or nothing and resets nothing
is the spec's decision D20, with its resolution of conflict C9 (log 16).
(70_reset_and_hazards.md R204, 92_eei_decisions.md D20, 90_conflicts.md C9) -/
def Obligations.LoadProgramAllOrNothing : Prop :=
  ∀ (s : State) (rest : List HostEvent) (bytes : List Byte), s.slot = 0 → s.pending = .loadProg bytes :: rest →
    (bytes.length + 0x200 > 4096 → step s = .next { s with pending := rest, answer := some .rejected }) ∧
    (bytes.length + 0x200 ≤ 4096 → ∃ t : State, step s = .next t ∧ t.answer = some .ok ∧
      (∀ (j : Nat) (h : j < bytes.length), Memory.read t.mem (0x200 + j) = bytes[j]) ∧
      (∀ a : Nat, a < 0x200 ∨ 0x200 + bytes.length ≤ a → Memory.read t.mem a = Memory.read s.mem a) ∧
      { t with mem := s.mem, pending := s.pending, answer := s.answer } = s)

/-- If FLT = 0 and MODE = AwaitKey, KEY_DOWN(k) writes k to V[KX] and sets MODE = Running, and nothing else changes (not
PC, no timer, no command); in every other state it changes nothing in the core. Rests on the spec's decisions D15 and
D8 (log 16).
(40_execution_cycle.md R88, 60_exceptions.md R176, 92_eei_decisions.md D15) -/
def Obligations.KeyDownDelivery : Prop :=
  ∀ (s : State) (rest : List HostEvent) (k : Nibble), s.slot = 0 → s.pending = .keyDown k :: rest →
    ∃ t : State, step s = .next t ∧ t.pending = rest ∧
      (s.flt = .none ∧ s.mode = .awaitKey →
        (t.reg s.kx).toNat = k.toNat ∧ t.mode = .running ∧ (∀ r : RegIdx, r ≠ s.kx → t.reg r = s.reg r) ∧
        { t with v := s.v, mode := s.mode, pending := s.pending, answer := s.answer } = s) ∧
      (¬ (s.flt = .none ∧ s.mode = .awaitKey) →
        { t with pending := s.pending, answer := s.answer } = s)

/-- With SP > 0, PC becomes STACK[SP-1] as it is and SP drops by 1, the slots that stay occupied keep their values, and
nothing else changes; with SP = 0 the fault is latched with FLT_ADDR = a0 and FLT_OP = 0x00EE, PC = a0 + 2 and nothing
else changes. The word 0x00EE decodes to it. That PC keeps a0 + 2 and nothing else changes is the spec's decision D7,
the record D8, the slots D3 (log 16); that the fault is a next state is log 12, and that a vacated slot keeps its bits
is not claimed (log 10).
(41_control_flow.md R100, 10_state.md R17, 40_execution_cycle.md R86, 60_exceptions.md R170, 60_exceptions.md R174, 92_eei_decisions.md D7, 92_eei_decisions.md D8) -/
def Obligations.RetPopsReturnAddress : Prop :=
  ∀ s : State, decode 0x00EE = .ret ∧
    (∀ h : 0 < s.sp.val, ∃ t : State, exec .ret s = .next t ∧
      t.pc = s.stack[s.sp.val - 1]'(by have := s.sp.isLt; omega) ∧ t.sp.val = s.sp.val - 1 ∧
      (∀ j : Fin 16, j.val < t.sp.val → t.stack[j.val] = s.stack[j.val]) ∧ Frame { stack := true } s t) ∧
    (s.sp.val = 0 → exec .ret s = .next { s with
      pc := s.pc + 2, flt := .stackUnderflow, fltAddr := s.pc, fltOp := 0x00EE })

/-- The word 0x1nnn decodes to the jump; it sets PC to the zero-extended nnn, odd or even, and changes no register, flag,
memory byte or port.
(R101) -/
def Obligations.JumpSetsPc : Prop :=
  ∀ (nnn : Imm12) (s : State), decode (0x1#4 ++ nnn : Word) = .jp nnn ∧
    ∃ t : State, exec (.jp nnn) s = .next t ∧ t.pc.toNat = nnn.toNat ∧ Frame {} s t

/-- With SP < 16, slot SP takes PC + 2, SP rises by 1, the occupied slots below keep their values and PC becomes nnn; with
SP = 16 the fault is latched with FLT_ADDR = a0 and FLT_OP = 0x2nnn, PC = a0 + 2, the stack and everything else
unchanged. The word 0x2nnn decodes to it. The depth and the overflow are the spec's decision D3, that a faulting
instruction changes only PC is D7, the record is D8 (log 16); that the fault is a next state is log 12.
(41_control_flow.md R102, 10_state.md R17, 40_execution_cycle.md R86, 60_exceptions.md R170, 60_exceptions.md R174, 92_eei_decisions.md D3, 92_eei_decisions.md D7, 92_eei_decisions.md D8) -/
def Obligations.CallPushesAdvancedPc : Prop :=
  ∀ (nnn : Imm12) (s : State), decode (0x2#4 ++ nnn : Word) = .call nnn ∧
    (∀ h : s.sp.val < 16, ∃ t : State, exec (.call nnn) s = .next t ∧
      t.stack[s.sp.val] = s.pc + 2 ∧ t.sp.val = s.sp.val + 1 ∧ t.pc.toNat = nnn.toNat ∧
      (∀ j : Fin 16, j.val < s.sp.val → t.stack[j.val] = s.stack[j.val]) ∧ Frame { stack := true } s t) ∧
    (s.sp.val = 16 → exec (.call nnn) s = .next { s with
      pc := s.pc + 2, flt := .stackOverflow, fltAddr := s.pc, fltOp := (0x2#4 ++ nnn : Word) })

/-- For every nnn and every state with SP < 16, executing 2nnn and then 00EE ends with PC = a0 + 2, SP and every occupied
stack slot as before the call, and no other register, byte or port changed. The depth 16 is the spec's decision D3
(log 16).
(41_control_flow.md R108) -/
def Obligations.CallThenReturnRoundTrip : Prop :=
  ∀ (nnn : Imm12) (s : State), s.sp.val < 16 →
    ∃ t u : State, exec (.call nnn) s = .next t ∧ exec .ret t = .next u ∧ u.pc = s.pc + 2 ∧ u.sp = s.sp ∧
      (∀ j : Fin 16, j.val < s.sp.val → u.stack[j.val] = s.stack[j.val]) ∧ Frame { stack := true } s u

/-- 0x3xkk advances PC by 4 when V[x] = kk and by 2 otherwise; 0x4xkk by 4 when V[x] != kk and by 2 otherwise; both for
every x including 15; nothing else changes.
(R103, R104) -/
def Obligations.SkipOnImmediate : Prop :=
  ∀ (x : RegIdx) (kk : Byte) (s : State),
    decode (0x3#4 ++ x ++ kk : Word) = .seVxKk x kk ∧ decode (0x4#4 ++ x ++ kk : Word) = .sneVxKk x kk ∧
    (∃ t : State, exec (.seVxKk x kk) s = .next t ∧ t.pc = s.pc + (if s.reg x = kk then 4 else 2) ∧ Frame {} s t) ∧
    ∃ t : State, exec (.sneVxKk x kk) s = .next t ∧ t.pc = s.pc + (if s.reg x ≠ kk then 4 else 2) ∧ Frame {} s t

/-- 0x5xyN advances PC by 4 when V[x] = V[y] and by 2 otherwise; 0x9xyN by 4 when they differ; the low nibble has no
effect (the spec's decision D11, log 16); nothing else changes.
(41_control_flow.md R105, 41_control_flow.md R106, 92_eei_decisions.md D11) -/
def Obligations.SkipOnRegisters : Prop :=
  ∀ (x y : RegIdx) (n : Nibble) (s : State),
    (∃ t : State, exec (decode (0x5#4 ++ x ++ y ++ n : Word)) s = .next t ∧ exec (.seVxVy x y n) s = .next t ∧
      t.pc = s.pc + (if s.reg x = s.reg y then 4 else 2) ∧ Frame {} s t) ∧
    ∃ t : State, exec (decode (0x9#4 ++ x ++ y ++ n : Word)) s = .next t ∧ exec (.sneVxVy x y n) s = .next t ∧
      t.pc = s.pc + (if s.reg x ≠ s.reg y then 4 else 2) ∧ Frame {} s t

/-- PC becomes nnn + V[0] exactly, up to 0x10FE, always with register 0; nothing else changes. That the sum is not masked
is the spec's decision D5 (log 16).
(41_control_flow.md R107, 92_eei_decisions.md D5) -/
def Obligations.JumpV0AddsRegisterZero : Prop :=
  ∀ (nnn : Imm12) (s : State), decode (0xB#4 ++ nnn : Word) = .jpV0 nnn ∧
    ∃ t : State, exec (.jpV0 nnn) s = .next t ∧ t.pc.toNat = nnn.toNat + (s.reg 0).toNat ∧ Frame {} s t

/-- 0x6xkk writes kk to V[x] for every x, PC advances by 2, and no other register, byte or port changes.
(R111) -/
def Obligations.LoadImmediate : Prop :=
  ∀ (x : RegIdx) (kk : Byte) (s : State), decode (0x6#4 ++ x ++ kk : Word) = .ldVxKk x kk ∧
    ∃ t : State, exec (.ldVxKk x kk) s = .next t ∧ t.pc = s.pc + 2 ∧ t.reg x = kk ∧ Frame { regs := [x] } s t

/-- 0x7xkk writes (V[x] + kk) mod 256 to V[x]; PC advances by 2; no other register changes, so V[15] is untouched unless x
= 15.
(R112) -/
def Obligations.AddImmediateWraps : Prop :=
  ∀ (x : RegIdx) (kk : Byte) (s : State), decode (0x7#4 ++ x ++ kk : Word) = .addVxKk x kk ∧
    ∃ t : State, exec (.addVxKk x kk) s = .next t ∧ t.pc = s.pc + 2 ∧
      (t.reg x).toNat = ((s.reg x).toNat + kk.toNat) % 256 ∧ Frame { regs := [x] } s t

/-- 0x8xy0 writes V[y] to V[x]; PC advances by 2; nothing else changes.
(R113) -/
def Obligations.CopyRegister : Prop :=
  ∀ (x y : RegIdx) (s : State), decode (0x8#4 ++ x ++ y ++ 0x0#4 : Word) = .ldVxVy x y ∧
    ∃ t : State, exec (.ldVxVy x y) s = .next t ∧ t.pc = s.pc + 2 ∧ t.reg x = s.reg y ∧ Frame { regs := [x] } s t

/-- Each writes the bitwise result of V[x] and V[y] to V[x], bit by bit; PC advances by 2; no other register changes, so
V[15] is untouched unless x = 15.
(R114, R115, R116) -/
def Obligations.LogicOperations : Prop :=
  ∀ (x y : RegIdx) (s : State),
    decode (0x8#4 ++ x ++ y ++ 0x1#4 : Word) = .orVxVy x y ∧ decode (0x8#4 ++ x ++ y ++ 0x2#4 : Word) = .andVxVy x y ∧
    decode (0x8#4 ++ x ++ y ++ 0x3#4 : Word) = .xorVxVy x y ∧
    (∃ t : State, exec (.orVxVy x y) s = .next t ∧ t.pc = s.pc + 2 ∧ Frame { regs := [x] } s t ∧
      ∀ j < 8, (t.reg x).getLsbD j = ((s.reg x).getLsbD j || (s.reg y).getLsbD j)) ∧
    (∃ t : State, exec (.andVxVy x y) s = .next t ∧ t.pc = s.pc + 2 ∧ Frame { regs := [x] } s t ∧
      ∀ j < 8, (t.reg x).getLsbD j = ((s.reg x).getLsbD j && (s.reg y).getLsbD j)) ∧
    ∃ t : State, exec (.xorVxVy x y) s = .next t ∧ t.pc = s.pc + 2 ∧ Frame { regs := [x] } s t ∧
      ∀ j < 8, (t.reg x).getLsbD j = ((s.reg x).getLsbD j ^^ (s.reg y).getLsbD j)

/-- With a, b the old operands: for x != 15, V[x] = (a + b) mod 256 and V[15] = 1 iff a + b > 255 (also when y = 15 or y =
x); for x = 15, V[15] = (a + b) mod 256. PC advances by 2 and no other register changes. The word 0x8xy4 decodes to
it. The order of the two writes is the spec's decision D10 (log 16).
(42_alu.md R117, 92_eei_decisions.md D10) -/
def Obligations.AddReportsCarry : Prop :=
  ∀ (x y : RegIdx) (s : State), decode (0x8#4 ++ x ++ y ++ 0x4#4 : Word) = .addVxVy x y ∧
    ∃ t : State, exec (.addVxVy x y) s = .next t ∧ t.pc = s.pc + 2 ∧
    (t.reg x).toNat = ((s.reg x).toNat + (s.reg y).toNat) % 256 ∧
    (x ≠ 0xF → t.reg 0xF = if (s.reg x).toNat + (s.reg y).toNat > 255 then 1 else 0) ∧
    Frame { regs := [x, 0xF] } s t

/-- With a, b the old operands and f = 1 iff a > b: x, y != 15 gives V[x] = (a - b) mod 256, V[15] = f; y = 15 only gives
V[x] = (a - f) mod 256, V[15] = f; x = 15 only gives V[15] = (f - b) mod 256; x = y = 15 gives 0. PC advances by 2 and
no other register changes. The word 0x8xy5 decodes to it. The aliased cases are the spec's decision D10 (log 16).
(42_alu.md R118, 92_eei_decisions.md D10) -/
def Obligations.SubtractReportsGreater : Prop :=
  ∀ (x y : RegIdx) (s : State), decode (0x8#4 ++ x ++ y ++ 0x5#4 : Word) = .subVxVy x y ∧
    ∃ t : State, exec (.subVxVy x y) s = .next t ∧ t.pc = s.pc + 2 ∧
    (let a := (s.reg x).toNat; let b := (s.reg y).toNat; let f := if a > b then 1 else 0
     (x ≠ 0xF ∧ y ≠ 0xF → (t.reg x).toNat = (a + 256 - b) % 256 ∧ (t.reg 0xF).toNat = f) ∧
     (x ≠ 0xF ∧ y = 0xF → (t.reg x).toNat = (a + 256 - f) % 256 ∧ (t.reg 0xF).toNat = f) ∧
     (x = 0xF ∧ y ≠ 0xF → (t.reg 0xF).toNat = (f + 256 - b) % 256) ∧
     (x = 0xF ∧ y = 0xF → (t.reg 0xF).toNat = 0)) ∧
    Frame { regs := [x, 0xF] } s t

/-- For x != 15, V[x] = old V[x] div 2 and V[15] = old V[x] mod 2; for x = 15, V[15] ends 0. The word 0x8xN6 decodes to it
for every N, which has no effect: that is the spec's decision D11 (log 16), and that the term carries N is log 13. PC
advances by 2 and no other register changes. The aliased case is the spec's decision D10 (log 16).
(42_alu.md R119, 30_encoding.md R68, 92_eei_decisions.md D10, 92_eei_decisions.md D11) -/
def Obligations.ShiftRightReportsLostBit : Prop :=
  ∀ (x : RegIdx) (z : Nibble) (s : State), decode (0x8#4 ++ x ++ z ++ 0x6#4 : Word) = .shrVx x z ∧
    ∃ t : State, exec (.shrVx x z) s = .next t ∧ t.pc = s.pc + 2 ∧
    (x ≠ 0xF → (t.reg x).toNat = (s.reg x).toNat / 2 ∧ (t.reg 0xF).toNat = (s.reg x).toNat % 2) ∧
    (x = 0xF → (t.reg 0xF).toNat = 0) ∧ Frame { regs := [x, 0xF] } s t

/-- With a, b the old V[x], V[y] and f = 1 iff b > a: x, y != 15 gives V[x] = (b - a) mod 256, V[15] = f; y = 15 only
gives V[x] = (f - a) mod 256, V[15] = f; x = 15 only gives V[15] = (b - f) mod 256; x = y = 15 gives 0. PC advances by
2 and no other register changes. The word 0x8xy7 decodes to it. The aliased cases are the spec's decision D10 (log
16).
(42_alu.md R120, 92_eei_decisions.md D10) -/
def Obligations.SubtractReversedReportsGreater : Prop :=
  ∀ (x y : RegIdx) (s : State), decode (0x8#4 ++ x ++ y ++ 0x7#4 : Word) = .subnVxVy x y ∧
    ∃ t : State, exec (.subnVxVy x y) s = .next t ∧ t.pc = s.pc + 2 ∧
    (let a := (s.reg x).toNat; let b := (s.reg y).toNat; let f := if b > a then 1 else 0
     (x ≠ 0xF ∧ y ≠ 0xF → (t.reg x).toNat = (b + 256 - a) % 256 ∧ (t.reg 0xF).toNat = f) ∧
     (x ≠ 0xF ∧ y = 0xF → (t.reg x).toNat = (f + 256 - a) % 256 ∧ (t.reg 0xF).toNat = f) ∧
     (x = 0xF ∧ y ≠ 0xF → (t.reg 0xF).toNat = (b + 256 - f) % 256) ∧
     (x = 0xF ∧ y = 0xF → (t.reg 0xF).toNat = 0)) ∧
    Frame { regs := [x, 0xF] } s t

/-- For x != 15, V[x] = (2 * old V[x]) mod 256 and V[15] = old bit 7; for x = 15, V[15] ends as twice that bit. The word
0x8xNE decodes to it for every N, which has no effect: that is the spec's decision D11 (log 16), and that the term
carries N is log 13. PC advances by 2 and no other register changes. The aliased case is the spec's decision D10 (log
16).
(42_alu.md R121, 30_encoding.md R68, 92_eei_decisions.md D10, 92_eei_decisions.md D11) -/
def Obligations.ShiftLeftReportsLostBit : Prop :=
  ∀ (x : RegIdx) (z : Nibble) (s : State), decode (0x8#4 ++ x ++ z ++ 0xE#4 : Word) = .shlVx x z ∧
    ∃ t : State, exec (.shlVx x z) s = .next t ∧ t.pc = s.pc + 2 ∧
    (x ≠ 0xF → (t.reg x).toNat = 2 * (s.reg x).toNat % 256 ∧ (t.reg 0xF).toNat = (s.reg x).toNat / 128) ∧
    (x = 0xF → (t.reg 0xF).toNat = 2 * ((s.reg x).toNat / 128)) ∧ Frame { regs := [x, 0xF] } s t

/-- V[x] becomes the byte supplied for this draw AND kk, so no bit outside kk is set, and the next draw is another one; PC
advances by 2 and no other register changes. The byte is a free value: the statement holds whatever it is (the spec's
decision D18, log 9).
(42_alu.md R122, 92_eei_decisions.md D18) -/
def Obligations.RandomByteIsMasked : Prop :=
  ∀ (x : RegIdx) (kk : Byte) (s : State), decode (0xC#4 ++ x ++ kk : Word) = .rnd x kk ∧
    ∃ t : State, exec (.rnd x kk) s = .next t ∧ t.pc = s.pc + 2 ∧ t.reg x = Config.randByte s.draws &&& kk ∧
      t.reg x &&& ~~~kk = 0 ∧ t.draws = s.draws + 1 ∧ Frame { regs := [x], draws := true } s t

/-- 0xAnnn sets I to the zero-extended nnn; PC advances by 2; nothing else changes.
(R130) -/
def Obligations.LoadIndex : Prop :=
  ∀ (nnn : Imm12) (s : State), decode (0xA#4 ++ nnn : Word) = .ldINnn nnn ∧
    ∃ t : State, exec (.ldINnn nnn) s = .next t ∧ t.pc = s.pc + 2 ∧ t.i.toNat = nnn.toNat ∧ Frame { index := true } s t

/-- I becomes (I + V[x]) mod 65536, never masked to 12 bits (the spec's decision D4, log 16); PC advances by 2; no
register changes, not V[15] either.
(43_index_memory.md R131, 92_eei_decisions.md D4) -/
def Obligations.AddToIndexWraps16 : Prop :=
  ∀ (x : RegIdx) (s : State), decode (0xF#4 ++ x ++ 0x1E#8 : Word) = .addIVx x ∧
    ∃ t : State, exec (.addIVx x) s = .next t ∧ t.pc = s.pc + 2 ∧
      t.i.toNat = (s.i.toNat + (s.reg x).toNat) % 65536 ∧ Frame { index := true } s t

/-- 0xFx29 sets I to V[x] * 5 exactly, 0..1275, without masking V[x]; PC advances by 2; nothing else changes.
(R132) -/
def Obligations.GlyphAddress : Prop :=
  ∀ (x : RegIdx) (s : State), decode (0xF#4 ++ x ++ 0x29#8 : Word) = .ldFVx x ∧
    ∃ t : State, exec (.ldFVx x) s = .next t ∧ t.pc = s.pc + 2 ∧ t.i.toNat = (s.reg x).toNat * 5 ∧
      Frame { index := true } s t

/-- When I + 2 <= 0xFFF, the three digits are stored at I, I+1 and I+2; every other byte of memory, I and every register
are unchanged; PC advances by 2. The word 0xFx33 decodes to it. The bound is the spec's decision D6 (log 16).
(43_index_memory.md R133, 20_memory.md R44, 92_eei_decisions.md D6) -/
def Obligations.DecimalDigitsStored : Prop :=
  ∀ (x : RegIdx) (s : State), decode (0xF#4 ++ x ++ 0x33#8 : Word) = .ldBVx x ∧ (s.i.toNat + 2 ≤ 0xFFF →
    ∃ t : State, exec (.ldBVx x) s = .next t ∧ t.pc = s.pc + 2 ∧
      (Memory.read t.mem s.i.toNat).toNat = (s.reg x).toNat / 100 ∧
      (Memory.read t.mem (s.i.toNat + 1)).toNat = (s.reg x).toNat / 10 % 10 ∧
      (Memory.read t.mem (s.i.toNat + 2)).toNat = (s.reg x).toNat % 10 ∧
      Frame { memFrom := s.i.toNat, memLen := 3 } s t)

/-- When I + x <= 0xFFF, V[j] is stored at I + j for j = 0..x; every other byte of memory, I and every register are
unchanged; PC advances by 2. The word 0xFx55 decodes to it. The bound is the spec's decision D6 (log 16).
(43_index_memory.md R134, 43_index_memory.md R136, 20_memory.md R44, 92_eei_decisions.md D6) -/
def Obligations.RegistersStored : Prop :=
  ∀ (x : RegIdx) (s : State), decode (0xF#4 ++ x ++ 0x55#8 : Word) = .ldMiVx x ∧ (s.i.toNat + x.toNat ≤ 0xFFF →
    ∃ t : State, exec (.ldMiVx x) s = .next t ∧ t.pc = s.pc + 2 ∧
      (∀ r : RegIdx, r.toNat ≤ x.toNat → Memory.read t.mem (s.i.toNat + r.toNat) = s.reg r) ∧
      Frame { memFrom := s.i.toNat, memLen := x.toNat + 1 } s t)

/-- When I + x <= 0xFFF, each of V[0]..V[x] is loaded from its own address I + j; the registers above x, I and all of
memory are unchanged; PC advances by 2. The word 0xFx65 decodes to it. The bound is the spec's decision D6 (log 16).
(43_index_memory.md R135, 43_index_memory.md R136, 90_conflicts.md C3, 20_memory.md R44, 92_eei_decisions.md D6) -/
def Obligations.RegistersLoaded : Prop :=
  ∀ (x : RegIdx) (s : State), decode (0xF#4 ++ x ++ 0x65#8 : Word) = .ldVxMi x ∧ (s.i.toNat + x.toNat ≤ 0xFFF →
    ∃ t : State, exec (.ldVxMi x) s = .next t ∧ t.pc = s.pc + 2 ∧
      (∀ r : RegIdx, r.toNat ≤ x.toNat → t.reg r = Memory.read s.mem (s.i.toNat + r.toNat)) ∧
      (∀ r : RegIdx, x.toNat < r.toNat → t.reg r = s.reg r) ∧ Frame { regs := regsThrough x } s t)

/-- When I + x <= 0xFFF, executing Fx55 and then Fx65 leaves every register and I as before, with PC 4 further on. The
bound is the spec's decision D6 (log 16).
(43_index_memory.md R135, 95_test_vectors.md S6) -/
def Obligations.StoreThenLoadRestores : Prop :=
  ∀ (x : RegIdx) (s : State), s.i.toNat + x.toNat ≤ 0xFFF →
    ∃ t u : State, exec (.ldMiVx x) s = .next t ∧ exec (.ldVxMi x) t = .next u ∧
      (∀ r : RegIdx, u.reg r = s.reg r) ∧ u.i = s.i ∧ u.pc = s.pc + 4

/-- For each completing Fx33 and Fx55, wherever I lies, let w be the word that memory then holds at the next instruction's
address: each of its bytes is the stored digit or register where the store covers it and the old byte elsewhere. After
exec, and after the step that runs the instruction, the fetch at PC is possible and reads w; and if a slot of the
frame is left, the next step executes the instruction that w decodes to, and nothing else. The finer steps are R91's
(log 1); the bound is the spec's decision D6 (log 16).
(20_memory.md R53, 43_index_memory.md R133, 43_index_memory.md R134, 40_execution_cycle.md R81, 95_test_vectors.md P8) -/
def Obligations.StoredInstructionIsFetched : Prop :=
  ∀ (i : Instr) (x : RegIdx) (s : State), (i = .ldBVx x ∨ i = .ldMiVx x) → faultOf i s = .none →
    s.pc.toNat + 3 ≤ 0xFFF →
    let w : Word := byteAfter i s (s.pc.toNat + 2) ++ byteAfter i s (s.pc.toNat + 3)
    (∃ t : State, exec i s = .next t ∧ t.canFetch = true ∧ t.fetchWord = w) ∧
    (s.runsNext → decode s.fetchWord = i →
      ∃ t : State, step s = .next t ∧ t.canFetch = true ∧ t.fetchWord = w ∧
        (s.slot + 1 < s.cfg.speed →
          ∃ u : State, exec (decode w) t = .next u ∧ step t = .next u.finishSlot))

/-- Exactly one DISP_CLEAR is issued; every pixel becomes 0; PC advances by 2; V[15] and everything else are unchanged,
the surface too until the next render. The word 0x00E0 decodes to it.
(44_io_timers.md R140, 60_exceptions.md R186) -/
def Obligations.ClearDisplay : Prop :=
  ∀ s : State, decode 0x00E0 = .cls ∧ ∃ t : State, exec .cls s = .next t ∧ t.pc = s.pc + 2 ∧ t.trace = s.trace ++ [.dispClear] ∧
    (∀ (px : Fin 64) (py : Fin 32), Screen.pixel t.fb px py = false) ∧ Frame { display := true, trace := true } s t

/-- When the sprite lies inside memory (or n = 0): a pixel is set afterwards exactly when one but not both of these hold:
it was set, a set bit of the sprite placed at (V[x], V[y]) and wrapped modulo 64 and 32 falls on it; V[15] is 1 if
some pixel had both and 0 otherwise; the coordinates are the old registers, also for x or y = 15; only V[15], the
display and the trace change; PC advances by 2. The word 0xDxyn decodes to it. The directions, which the spec has from
general knowledge (G3), and the coordinates read before V[15] is written are the spec's decision D16, the bound is D6
(log 16).
(44_io_timers.md R141, 60_exceptions.md R185, 92_eei_decisions.md D16) -/
def Obligations.DrawTogglesSprite : Prop :=
  ∀ (x y : RegIdx) (n : Nibble) (s : State), decode (0xD#4 ++ x ++ y ++ n : Word) = .drw x y n ∧ ((n.toNat = 0 ∨ s.i.toNat + n.toNat - 1 ≤ 0xFFF) →
    ∃ t : State, exec (.drw x y n) s = .next t ∧ t.pc = s.pc + 2 ∧
      (∀ (px : Fin 64) (py : Fin 32), Screen.pixel t.fb px py = true ↔
        ¬ (Screen.pixel s.fb px py = true ↔ spriteCovers s (s.reg x).toNat (s.reg y).toNat n.toNat px py)) ∧
      (t.reg 0xF = 0 ∨ t.reg 0xF = 1) ∧
      (t.reg 0xF = 1 ↔ ∃ (px : Fin 64) (py : Fin 32),
        Screen.pixel s.fb px py = true ∧ spriteCovers s (s.reg x).toNat (s.reg y).toNat n.toNat px py) ∧
      Frame { regs := [0xF], display := true, trace := true } s t)

/-- The trace grows by exactly the commands of the sprite's set bits, row by row and bit 7 first, at the plain sums V[x] +
col and V[y] + row, each answered by the pixel as it was before the instruction. The order and the directions, which
the spec has from general knowledge (G3), are its decision D16, the bound is D6 (log 16).
(44_io_timers.md R141, 10_state.md R31, 92_eei_decisions.md D16) -/
def Obligations.DrawCommandsInOrder : Prop :=
  ∀ (x y : RegIdx) (n : Nibble) (s : State), (n.toNat = 0 ∨ s.i.toNat + n.toNat - 1 ≤ 0xFFF) →
    ∃ t : State, exec (.drw x y n) s = .next t ∧
      t.trace = s.trace ++ spriteCommands s (s.reg x).toNat (s.reg y).toNat n.toNat

/-- For x, y other than 15 and a sprite inside memory, two draws leave every pixel as it was; if the sprite has a set bit
and the screen was blank, the first leaves V[15] = 0 and the second V[15] = 1. Rests on the spec's decisions D6 and
D16 (log 16).
(44_io_timers.md R141, 95_test_vectors.md S8, 92_eei_decisions.md D16) -/
def Obligations.DrawTwiceRestores : Prop :=
  ∀ (x y : RegIdx) (n : Nibble) (s : State), x ≠ 0xF → y ≠ 0xF → (n.toNat = 0 ∨ s.i.toNat + n.toNat - 1 ≤ 0xFFF) →
    ∃ t u : State, exec (.drw x y n) s = .next t ∧ exec (.drw x y n) t = .next u ∧
      (∀ (px : Fin 64) (py : Fin 32), Screen.pixel u.fb px py = Screen.pixel s.fb px py) ∧
      ((∀ (px : Fin 64) (py : Fin 32), Screen.pixel s.fb px py = false) →
        (∃ r c : Nat, r < n.toNat ∧ c < 8 ∧ spriteBit s r c = true) → t.reg 0xF = 0 ∧ u.reg 0xF = 1)

/-- With px = x mod 64 and py = y mod 32, the answer is the old pixel, the pixel becomes its complement, and no other
pixel changes.
(R185) -/
def Obligations.SetPixelTogglesAndReports : Prop :=
  ∀ (s : State) (x y : Nat) (px : Fin 64) (py : Fin 32), px.val = x % 64 → py.val = y % 32 →
    (s.setPixel x y).2 = Screen.pixel s.fb px py ∧
    Screen.pixel (s.setPixel x y).1.fb px py = !Screen.pixel s.fb px py ∧
    ∀ (qx : Fin 64) (qy : Fin 32), qx ≠ px ∨ qy ≠ py →
      Screen.pixel (s.setPixel x y).1.fb qx qy = Screen.pixel s.fb qx qy

/-- Ex9E advances PC by 4 when V[x] <= 15 and the level of that key is 1, by 2 otherwise; ExA1 the other way round; the
key is not consumed and nothing else changes. The words 0xEx9E and 0xExA1 decode to them. The code above 15 is the
spec's decision D14 (log 16).
(44_io_timers.md R142, 44_io_timers.md R143, 44_io_timers.md R148) -/
def Obligations.SkipOnKey : Prop :=
  ∀ (x : RegIdx) (s : State),
    decode (0xE#4 ++ x ++ 0x9E#8 : Word) = .skp x ∧ decode (0xE#4 ++ x ++ 0xA1#8 : Word) = .sknp x ∧
    (∃ t : State, exec (.skp x) s = .next t ∧ Frame {} s t ∧
      t.pc = s.pc + (if (s.reg x).toNat ≤ 15 ∧ s.keys.getLsbD (s.reg x).toNat = true then 4 else 2)) ∧
    ∃ t : State, exec (.sknp x) s = .next t ∧ Frame {} s t ∧
      t.pc = s.pc + (if (s.reg x).toNat ≤ 15 ∧ s.keys.getLsbD (s.reg x).toNat = true then 2 else 4)

/-- Fx07 copies DT to V[x]; Fx15 copies V[x] to DT; Fx18 copies V[x] to ST and starts no tone; PC advances by 2 and
nothing else changes. The words 0xFx07, 0xFx15 and 0xFx18 decode to them.
(44_io_timers.md R144, 44_io_timers.md R146, 44_io_timers.md R147) -/
def Obligations.TimerRegisterMoves : Prop :=
  ∀ (x : RegIdx) (s : State),
    decode (0xF#4 ++ x ++ 0x07#8 : Word) = .ldVxDt x ∧ decode (0xF#4 ++ x ++ 0x15#8 : Word) = .ldDtVx x ∧
    decode (0xF#4 ++ x ++ 0x18#8 : Word) = .ldStVx x ∧
    (∃ t : State, exec (.ldVxDt x) s = .next t ∧ t.pc = s.pc + 2 ∧ t.reg x = s.dt ∧ Frame { regs := [x] } s t) ∧
    (∃ t : State, exec (.ldDtVx x) s = .next t ∧ t.pc = s.pc + 2 ∧ t.dt = s.reg x ∧ Frame { dt := true } s t) ∧
    ∃ t : State, exec (.ldStVx x) s = .next t ∧ t.pc = s.pc + 2 ∧ t.st = s.reg x ∧ Frame { st := true } s t

/-- KX becomes x and MODE becomes AwaitKey; PC has advanced past the instruction; no general register, V[x] included, and
nothing else changes.
(44_io_timers.md R145) -/
def Obligations.WaitForKeySuspends : Prop :=
  ∀ (x : RegIdx) (s : State), decode (0xF#4 ++ x ++ 0x0A#8 : Word) = .ldVxK x ∧
    ∃ t : State, exec (.ldVxK x) s = .next t ∧ t.pc = s.pc + 2 ∧ t.kx = x ∧ t.mode = .awaitKey ∧ Frame { wait := true } s t

/-- Each of UNK_0, UNK_8, UNK_E and UNK_F appends DIAG_UNKNOWN(a0, op), with op the word it was decoded from, and changes
nothing else but PC. The form of the diagnostic is the spec's decision D13, and which words these are rests on its
decision D12 (log 16).
(45_unknown_subopcodes.md R160, 45_unknown_subopcodes.md R161, 45_unknown_subopcodes.md R162, 45_unknown_subopcodes.md R163, 45_unknown_subopcodes.md R164) -/
def Obligations.UnknownIsDiagnosedNop : Prop :=
  ∀ (s : State) (op : Word) (i : Instr), decode op = i →
    ((∃ nnn : Imm12, i = .unk0 nnn) ∨ (∃ (x y : RegIdx) (n : Nibble), i = .unk8 x y n) ∨
      (∃ (x : RegIdx) (kk : Byte), i = .unkE x kk) ∨ ∃ (x : RegIdx) (kk : Byte), i = .unkF x kk) →
    ∃ t : State, exec i s = .next t ∧ t.pc = s.pc + 2 ∧ t.trace = s.trace ++ [.diagUnknown s.pc op] ∧
      Frame { trace := true } s t

/-- For every instruction and every state exec answers a next state, in which only PC and the registers, memory bytes,
stack, timers, mode, display, trace and draw count that the row lists have changed; where the instruction faults, only
PC and the fault record have: that is the spec's decision D7 (R86, log 16), and that a fault is a next state is log
12.
(10_state.md R28, 10_state.md R12, 10_state.md R13, 40_execution_cycle.md R86, 92_eei_decisions.md D7) -/
def Obligations.WritesOnlyItsTableRow : Prop :=
  ∀ (i : Instr) (s : State), ∃ t : State, exec i s = .next t ∧
    Frame (if faultOf i s = .none then writesOf i s else { fault := true }) s t

/-- 00EE with SP = 0, 2nnn with SP = 16, Dxyn, Fx33, Fx55 and Fx65 reaching above 0xFFF latch their code with FLT_ADDR =
a0 and FLT_OP = the word, PC = a0 + 2, every other piece of state as it was; in every other case, and for every other
instruction, the fault record is left alone. Rests on the spec's decisions D3, D6, D7, D8 (log 16).
(60_exceptions.md R170, 60_exceptions.md R174, 40_execution_cycle.md R86, 92_eei_decisions.md D7) -/
def Obligations.FaultsExactlyWhenListed : Prop :=
  ∀ (i : Instr) (s : State),
    (faultOf i s ≠ .none →
      exec i s = .next { s with pc := s.pc + 2, flt := faultOf i s, fltAddr := s.pc, fltOp := encode i }) ∧
    (faultOf i s = .none → ∃ t : State, exec i s = .next t ∧
      t.flt = s.flt ∧ t.fltAddr = s.fltAddr ∧ t.fltOp = s.fltOp)

/-- If a step takes MODE from Running to AwaitKey, it ran an Fx0A and KX is its x; if a step takes MODE from AwaitKey to
Running, it was a KEY_DOWN on a core without a fault or a RESET, between frame steps. That the way out is KEY_DOWN on
a core without a fault is the spec's decision D15, that RESET is a transaction of its own D20 (log 16).
(10_state.md R20, 40_execution_cycle.md R88, 70_reset_and_hazards.md R200, 92_eei_decisions.md D15) -/
def Obligations.WaitEntryAndExit : Prop :=
  ∀ s t : State, step s = .next t →
    (s.mode = .running → t.mode = .awaitKey → ∃ x : RegIdx, s.runsNext ∧ decode s.fetchWord = .ldVxK x ∧ t.kx = x) ∧
    (s.mode = .awaitKey → t.mode = .running → s.slot = 0 ∧
      ((s.flt = .none ∧ ∃ k : Nibble, s.pending.head? = some (.keyDown k)) ∨ s.pending.head? = some .reset))

/-- From a state with FLT non-zero, any step that is not the RESET transaction leaves V, I, PC, STACK, SP, DT, ST, MODE,
KX and the fault record as they were and issues no command. Rests on the spec's decision D8 (log 16).
(10_state.md R27, 60_exceptions.md R176, 60_exceptions.md R178, 92_eei_decisions.md D8) -/
def Obligations.FaultedCoreIsFrozen : Prop :=
  ∀ s t : State, s.flt ≠ .none → step s = .next t → (s.slot = 0 → s.pending.head? ≠ some .reset) →
    t.v = s.v ∧ t.i = s.i ∧ t.pc = s.pc ∧ t.stack = s.stack ∧ t.sp = s.sp ∧ t.dt = s.dt ∧ t.st = s.st ∧
    t.mode = s.mode ∧ t.kx = s.kx ∧ t.flt = s.flt ∧ t.fltAddr = s.fltAddr ∧ t.fltOp = s.fltOp ∧ t.trace = s.trace

/-- Every step keeps SPEED and FONT and only appends to the output trace; while a frame step is open it leaves the key
levels and the host's script as they are: that is the spec's decision D21 (R8, R32, log 16), as the model's script
(log 2) and its key events (log 14) carry it. The trace in State is log 11.
(10_state.md R10, 10_state.md R32, 10_state.md R33, 00_scope.md R7, 00_scope.md R8, 92_eei_decisions.md D21) -/
def Obligations.StepRespectsPorts : Prop :=
  ∀ s t : State, step s = .next t →
    t.cfg = s.cfg ∧ s.trace <+: t.trace ∧ (s.slot ≠ 0 → t.keys = s.keys ∧ t.pending = s.pending)

/-- When key k goes down its level KEYS[k] becomes 1, when it is released 0; the other fifteen levels keep their values;
the event is taken from the host's script and nothing else of the state changes: no register, not MODE (a waiting core
is resumed by KEY_DOWN alone), no command, no answer. That the level and KEY_DOWN are two events is the model's choice
(log 14); that releases are not reported is the spec's decision D15, that levels change between frame steps only D21
(log 16).
(60_exceptions.md R188, 10_state.md R32, 92_eei_decisions.md D15) -/
def Obligations.KeyLevelSetsOneBit : Prop :=
  ∀ (s : State) (rest : List HostEvent) (k : Nibble) (down : Bool), s.slot = 0 → s.pending = .keyLevel k down :: rest →
    ∃ t : State, step s = .next t ∧ t.pending = rest ∧ t.keys.getLsbD k.toNat = down ∧
      (∀ c : Nibble, c ≠ k → t.keys.getLsbD c.toNat = s.keys.getLsbD c.toNat) ∧
      { t with keys := s.keys, pending := s.pending } = s
end

