-- ==== Sys2Proof/Laws/Decode.lean ====
section
/-!
SUPPORT. The fields of an encoded word, one lemma per field and format: what the encoder puts in, the decoder takes out.
-/

namespace Sys2Proof

/-- A slice that lies in the high part of a concatenation is a slice of that part. -/
theorem slice_high {v w : Nat} (a : BitVec v) (b : BitVec w) (start len : Nat) :
    (a ++ b).extractLsb' (w + start) len = a.extractLsb' start len := by
  apply BitVec.eq_of_getLsbD_eq
  intro j hj
  simp only [BitVec.getLsbD_extractLsb', hj, decide_true, Bool.true_and, BitVec.getLsbD_append]
  rw [if_neg (by omega), show w + start + j - w = start + j by omega]

/-- A slice that lies in the low part of a concatenation is a slice of that part. -/
theorem slice_low {v w : Nat} (a : BitVec v) (b : BitVec w) (start len : Nat) (h : start + len ≤ w) :
    (a ++ b).extractLsb' start len = b.extractLsb' start len := by
  apply BitVec.eq_of_getLsbD_eq
  intro j hj
  simp only [BitVec.getLsbD_extractLsb', hj, decide_true, Bool.true_and, BitVec.getLsbD_append]
  rw [if_pos (by omega)]

/-- The slice of all the bits is the vector. -/
theorem slice_all {w : Nat} (a : BitVec w) : a.extractLsb' 0 w = a := by
  apply BitVec.eq_of_getLsbD_eq
  intro j hj
  simp [hj]

@[simp] theorem fieldFam_encodeA (f : Nibble) (a : Imm12) : fieldFam (encodeA f a) = f :=
  (slice_high f a 0 4).trans (slice_all f)

@[simp] theorem fieldNnn_encodeA (f : Nibble) (a : Imm12) : fieldNnn (encodeA f a) = a :=
  (slice_low f a 0 12 (by decide)).trans (slice_all a)

@[simp] theorem fieldFam_encodeXK (f x : Nibble) (k : Byte) : fieldFam (encodeXK f x k) = f :=
  (slice_high (f ++ x) k 4 4).trans ((slice_high f x 0 4).trans (slice_all f))

@[simp] theorem fieldX_encodeXK (f x : Nibble) (k : Byte) : fieldX (encodeXK f x k) = x :=
  (slice_high (f ++ x) k 0 4).trans ((slice_low f x 0 4 (by decide)).trans (slice_all x))

@[simp] theorem fieldKk_encodeXK (f x : Nibble) (k : Byte) : fieldKk (encodeXK f x k) = k :=
  (slice_low (f ++ x) k 0 8 (by decide)).trans (slice_all k)

@[simp] theorem fieldFam_encodeXY (f x y n : Nibble) : fieldFam (encodeXY f x y n) = f :=
  (slice_high (f ++ x ++ y) n 8 4).trans ((slice_high (f ++ x) y 4 4).trans ((slice_high f x 0 4).trans (slice_all f)))

@[simp] theorem fieldX_encodeXY (f x y n : Nibble) : fieldX (encodeXY f x y n) = x :=
  (slice_high (f ++ x ++ y) n 4 4).trans
    ((slice_high (f ++ x) y 0 4).trans ((slice_low f x 0 4 (by decide)).trans (slice_all x)))

@[simp] theorem fieldY_encodeXY (f x y n : Nibble) : fieldY (encodeXY f x y n) = y :=
  (slice_high (f ++ x ++ y) n 0 4).trans ((slice_low (f ++ x) y 0 4 (by decide)).trans (slice_all y))

@[simp] theorem fieldN_encodeXY (f x y n : Nibble) : fieldN (encodeXY f x y n) = n :=
  (slice_low (f ++ x ++ y) n 0 4 (by decide)).trans (slice_all n)

/-- Two adjacent slices put together are the slice over both. -/
theorem slice_join {w : Nat} (a : BitVec w) (start l h : Nat) :
    a.extractLsb' (start + l) h ++ a.extractLsb' start l = a.extractLsb' start (h + l) := by
  apply BitVec.eq_of_getLsbD_eq
  intro j hj
  simp only [BitVec.getLsbD_append, BitVec.getLsbD_extractLsb', hj, decide_true, Bool.true_and]
  split
  · simp [*]
  · rw [show start + l + (j - l) = start + j by omega, decide_eq_true (by omega : j - l < h), Bool.true_and]

/-- The two bytes of a word, packed again, are the word. -/
@[simp] theorem packWord_bytes (op : Word) : packWord (highByte op) (lowByte op) = op :=
  (slice_join op 0 8 8).trans (slice_all op)

/-- The fields of the format `A`, put together, are the word. -/
theorem encodeA_fields (op : Word) : encodeA (fieldFam op) (fieldNnn op) = op :=
  (slice_join op 0 12 4).trans (slice_all op)

/-- The fields of the format `XK`, put together, are the word. -/
theorem encodeXK_fields (op : Word) : encodeXK (fieldFam op) (fieldX op) (fieldKk op) = op :=
  (congrArg (fun a : BitVec 8 => a ++ fieldKk op) (slice_join op 8 4 4)).trans ((slice_join op 0 8 8).trans (slice_all op))

/-- The low byte is the fields `y` and `n` put together. -/
theorem fieldKk_eq (op : Word) : fieldKk op = fieldY op ++ fieldN op := (slice_join op 0 4 4).symm

/-- The fields of the format `XY`, put together, are the word. -/
theorem encodeXY_fields (op : Word) : encodeXY (fieldFam op) (fieldX op) (fieldY op) (fieldN op) = op :=
  (congrArg (fun a : BitVec 12 => a ++ fieldN op)
      ((congrArg (fun a : BitVec 8 => a ++ fieldY op) (slice_join op 8 4 4)).trans (slice_join op 4 4 8))).trans
    ((slice_join op 0 4 12).trans (slice_all op))

/-- A pair of bytes never rejects (30_encoding.md R69). -/
theorem decodeBytes_pair (hi lo : Byte) (rest : List Byte) :
    decodeBytes (hi :: lo :: rest) = .ok (decode (packWord hi lo), rest) := rfl

/-- The decoder reads the bytes the encoder lays out. -/
theorem decodeBytes_encodeBytes (i : Instr) (rest : List Byte) :
    decodeBytes (encodeBytes i ++ rest) = .ok (decode (encode i), rest) := by
  simp [encodeBytes, decodeBytes]

end Sys2Proof
end

