-- ==== Sys2Proof/Laws/State.lean ====
section
/-!
SUPPORT. What each named update of the state leaves in each field, so that no later proof unfolds a record update.
-/

namespace Sys2Proof.Machine

open Sys2Proof

@[simp] theorem setReg_cfg (s : State) (x : RegIdx) (b : Byte) : (s.setReg x b).cfg = s.cfg := rfl
@[simp] theorem setReg_mem (s : State) (x : RegIdx) (b : Byte) : (s.setReg x b).mem = s.mem := rfl
@[simp] theorem setReg_v (s : State) (x : RegIdx) (b : Byte) : (s.setReg x b).v = s.v.set x.toNat b x.isLt := rfl
@[simp] theorem setReg_i (s : State) (x : RegIdx) (b : Byte) : (s.setReg x b).i = s.i := rfl
@[simp] theorem setReg_pc (s : State) (x : RegIdx) (b : Byte) : (s.setReg x b).pc = s.pc := rfl
@[simp] theorem setReg_stack (s : State) (x : RegIdx) (b : Byte) : (s.setReg x b).stack = s.stack := rfl
@[simp] theorem setReg_sp (s : State) (x : RegIdx) (b : Byte) : (s.setReg x b).sp = s.sp := rfl
@[simp] theorem setReg_dt (s : State) (x : RegIdx) (b : Byte) : (s.setReg x b).dt = s.dt := rfl
@[simp] theorem setReg_st (s : State) (x : RegIdx) (b : Byte) : (s.setReg x b).st = s.st := rfl
@[simp] theorem setReg_mode (s : State) (x : RegIdx) (b : Byte) : (s.setReg x b).mode = s.mode := rfl
@[simp] theorem setReg_kx (s : State) (x : RegIdx) (b : Byte) : (s.setReg x b).kx = s.kx := rfl
@[simp] theorem setReg_flt (s : State) (x : RegIdx) (b : Byte) : (s.setReg x b).flt = s.flt := rfl
@[simp] theorem setReg_fltAddr (s : State) (x : RegIdx) (b : Byte) : (s.setReg x b).fltAddr = s.fltAddr := rfl
@[simp] theorem setReg_fltOp (s : State) (x : RegIdx) (b : Byte) : (s.setReg x b).fltOp = s.fltOp := rfl
@[simp] theorem setReg_fb (s : State) (x : RegIdx) (b : Byte) : (s.setReg x b).fb = s.fb := rfl
@[simp] theorem setReg_surface (s : State) (x : RegIdx) (b : Byte) : (s.setReg x b).surface = s.surface := rfl
@[simp] theorem setReg_keys (s : State) (x : RegIdx) (b : Byte) : (s.setReg x b).keys = s.keys := rfl
@[simp] theorem setReg_tone (s : State) (x : RegIdx) (b : Byte) : (s.setReg x b).tone = s.tone := rfl
@[simp] theorem setReg_draws (s : State) (x : RegIdx) (b : Byte) : (s.setReg x b).draws = s.draws := rfl
@[simp] theorem setReg_traceRev (s : State) (x : RegIdx) (b : Byte) : (s.setReg x b).traceRev = s.traceRev := rfl
@[simp] theorem setReg_slot (s : State) (x : RegIdx) (b : Byte) : (s.setReg x b).slot = s.slot := rfl
@[simp] theorem setReg_pending (s : State) (x : RegIdx) (b : Byte) : (s.setReg x b).pending = s.pending := rfl
@[simp] theorem setReg_answer (s : State) (x : RegIdx) (b : Byte) : (s.setReg x b).answer = s.answer := rfl

@[simp] theorem setFlag_cfg (s : State) (f : Bool) : (s.setFlag f).cfg = s.cfg := rfl
@[simp] theorem setFlag_mem (s : State) (f : Bool) : (s.setFlag f).mem = s.mem := rfl
@[simp] theorem setFlag_i (s : State) (f : Bool) : (s.setFlag f).i = s.i := rfl
@[simp] theorem setFlag_pc (s : State) (f : Bool) : (s.setFlag f).pc = s.pc := rfl
@[simp] theorem setFlag_stack (s : State) (f : Bool) : (s.setFlag f).stack = s.stack := rfl
@[simp] theorem setFlag_sp (s : State) (f : Bool) : (s.setFlag f).sp = s.sp := rfl
@[simp] theorem setFlag_dt (s : State) (f : Bool) : (s.setFlag f).dt = s.dt := rfl
@[simp] theorem setFlag_st (s : State) (f : Bool) : (s.setFlag f).st = s.st := rfl
@[simp] theorem setFlag_mode (s : State) (f : Bool) : (s.setFlag f).mode = s.mode := rfl
@[simp] theorem setFlag_kx (s : State) (f : Bool) : (s.setFlag f).kx = s.kx := rfl
@[simp] theorem setFlag_flt (s : State) (f : Bool) : (s.setFlag f).flt = s.flt := rfl
@[simp] theorem setFlag_fltAddr (s : State) (f : Bool) : (s.setFlag f).fltAddr = s.fltAddr := rfl
@[simp] theorem setFlag_fltOp (s : State) (f : Bool) : (s.setFlag f).fltOp = s.fltOp := rfl
@[simp] theorem setFlag_fb (s : State) (f : Bool) : (s.setFlag f).fb = s.fb := rfl
@[simp] theorem setFlag_surface (s : State) (f : Bool) : (s.setFlag f).surface = s.surface := rfl
@[simp] theorem setFlag_keys (s : State) (f : Bool) : (s.setFlag f).keys = s.keys := rfl
@[simp] theorem setFlag_tone (s : State) (f : Bool) : (s.setFlag f).tone = s.tone := rfl
@[simp] theorem setFlag_draws (s : State) (f : Bool) : (s.setFlag f).draws = s.draws := rfl
@[simp] theorem setFlag_traceRev (s : State) (f : Bool) : (s.setFlag f).traceRev = s.traceRev := rfl
@[simp] theorem setFlag_slot (s : State) (f : Bool) : (s.setFlag f).slot = s.slot := rfl
@[simp] theorem setFlag_pending (s : State) (f : Bool) : (s.setFlag f).pending = s.pending := rfl
@[simp] theorem setFlag_answer (s : State) (f : Bool) : (s.setFlag f).answer = s.answer := rfl

@[simp] theorem advance_cfg (s : State) : (s.advance).cfg = s.cfg := rfl
@[simp] theorem advance_mem (s : State) : (s.advance).mem = s.mem := rfl
@[simp] theorem advance_v (s : State) : (s.advance).v = s.v := rfl
@[simp] theorem advance_i (s : State) : (s.advance).i = s.i := rfl
@[simp] theorem advance_pc (s : State) : (s.advance).pc = s.pc + 2 := rfl
@[simp] theorem advance_stack (s : State) : (s.advance).stack = s.stack := rfl
@[simp] theorem advance_sp (s : State) : (s.advance).sp = s.sp := rfl
@[simp] theorem advance_dt (s : State) : (s.advance).dt = s.dt := rfl
@[simp] theorem advance_st (s : State) : (s.advance).st = s.st := rfl
@[simp] theorem advance_mode (s : State) : (s.advance).mode = s.mode := rfl
@[simp] theorem advance_kx (s : State) : (s.advance).kx = s.kx := rfl
@[simp] theorem advance_flt (s : State) : (s.advance).flt = s.flt := rfl
@[simp] theorem advance_fltAddr (s : State) : (s.advance).fltAddr = s.fltAddr := rfl
@[simp] theorem advance_fltOp (s : State) : (s.advance).fltOp = s.fltOp := rfl
@[simp] theorem advance_fb (s : State) : (s.advance).fb = s.fb := rfl
@[simp] theorem advance_surface (s : State) : (s.advance).surface = s.surface := rfl
@[simp] theorem advance_keys (s : State) : (s.advance).keys = s.keys := rfl
@[simp] theorem advance_tone (s : State) : (s.advance).tone = s.tone := rfl
@[simp] theorem advance_draws (s : State) : (s.advance).draws = s.draws := rfl
@[simp] theorem advance_traceRev (s : State) : (s.advance).traceRev = s.traceRev := rfl
@[simp] theorem advance_slot (s : State) : (s.advance).slot = s.slot := rfl
@[simp] theorem advance_pending (s : State) : (s.advance).pending = s.pending := rfl
@[simp] theorem advance_answer (s : State) : (s.advance).answer = s.answer := rfl

@[simp] theorem jump_cfg (s : State) (w : Word) : (s.jump w).cfg = s.cfg := rfl
@[simp] theorem jump_mem (s : State) (w : Word) : (s.jump w).mem = s.mem := rfl
@[simp] theorem jump_v (s : State) (w : Word) : (s.jump w).v = s.v := rfl
@[simp] theorem jump_i (s : State) (w : Word) : (s.jump w).i = s.i := rfl
@[simp] theorem jump_pc (s : State) (w : Word) : (s.jump w).pc = w := rfl
@[simp] theorem jump_stack (s : State) (w : Word) : (s.jump w).stack = s.stack := rfl
@[simp] theorem jump_sp (s : State) (w : Word) : (s.jump w).sp = s.sp := rfl
@[simp] theorem jump_dt (s : State) (w : Word) : (s.jump w).dt = s.dt := rfl
@[simp] theorem jump_st (s : State) (w : Word) : (s.jump w).st = s.st := rfl
@[simp] theorem jump_mode (s : State) (w : Word) : (s.jump w).mode = s.mode := rfl
@[simp] theorem jump_kx (s : State) (w : Word) : (s.jump w).kx = s.kx := rfl
@[simp] theorem jump_flt (s : State) (w : Word) : (s.jump w).flt = s.flt := rfl
@[simp] theorem jump_fltAddr (s : State) (w : Word) : (s.jump w).fltAddr = s.fltAddr := rfl
@[simp] theorem jump_fltOp (s : State) (w : Word) : (s.jump w).fltOp = s.fltOp := rfl
@[simp] theorem jump_fb (s : State) (w : Word) : (s.jump w).fb = s.fb := rfl
@[simp] theorem jump_surface (s : State) (w : Word) : (s.jump w).surface = s.surface := rfl
@[simp] theorem jump_keys (s : State) (w : Word) : (s.jump w).keys = s.keys := rfl
@[simp] theorem jump_tone (s : State) (w : Word) : (s.jump w).tone = s.tone := rfl
@[simp] theorem jump_draws (s : State) (w : Word) : (s.jump w).draws = s.draws := rfl
@[simp] theorem jump_traceRev (s : State) (w : Word) : (s.jump w).traceRev = s.traceRev := rfl
@[simp] theorem jump_slot (s : State) (w : Word) : (s.jump w).slot = s.slot := rfl
@[simp] theorem jump_pending (s : State) (w : Word) : (s.jump w).pending = s.pending := rfl
@[simp] theorem jump_answer (s : State) (w : Word) : (s.jump w).answer = s.answer := rfl

@[simp] theorem emit_cfg (s : State) (e : PortEvent) : (s.emit e).cfg = s.cfg := rfl
@[simp] theorem emit_mem (s : State) (e : PortEvent) : (s.emit e).mem = s.mem := rfl
@[simp] theorem emit_v (s : State) (e : PortEvent) : (s.emit e).v = s.v := rfl
@[simp] theorem emit_i (s : State) (e : PortEvent) : (s.emit e).i = s.i := rfl
@[simp] theorem emit_pc (s : State) (e : PortEvent) : (s.emit e).pc = s.pc := rfl
@[simp] theorem emit_stack (s : State) (e : PortEvent) : (s.emit e).stack = s.stack := rfl
@[simp] theorem emit_sp (s : State) (e : PortEvent) : (s.emit e).sp = s.sp := rfl
@[simp] theorem emit_dt (s : State) (e : PortEvent) : (s.emit e).dt = s.dt := rfl
@[simp] theorem emit_st (s : State) (e : PortEvent) : (s.emit e).st = s.st := rfl
@[simp] theorem emit_mode (s : State) (e : PortEvent) : (s.emit e).mode = s.mode := rfl
@[simp] theorem emit_kx (s : State) (e : PortEvent) : (s.emit e).kx = s.kx := rfl
@[simp] theorem emit_flt (s : State) (e : PortEvent) : (s.emit e).flt = s.flt := rfl
@[simp] theorem emit_fltAddr (s : State) (e : PortEvent) : (s.emit e).fltAddr = s.fltAddr := rfl
@[simp] theorem emit_fltOp (s : State) (e : PortEvent) : (s.emit e).fltOp = s.fltOp := rfl
@[simp] theorem emit_fb (s : State) (e : PortEvent) : (s.emit e).fb = s.fb := rfl
@[simp] theorem emit_surface (s : State) (e : PortEvent) : (s.emit e).surface = s.surface := rfl
@[simp] theorem emit_keys (s : State) (e : PortEvent) : (s.emit e).keys = s.keys := rfl
@[simp] theorem emit_tone (s : State) (e : PortEvent) : (s.emit e).tone = s.tone := rfl
@[simp] theorem emit_draws (s : State) (e : PortEvent) : (s.emit e).draws = s.draws := rfl
@[simp] theorem emit_traceRev (s : State) (e : PortEvent) : (s.emit e).traceRev = e :: s.traceRev := rfl
@[simp] theorem emit_slot (s : State) (e : PortEvent) : (s.emit e).slot = s.slot := rfl
@[simp] theorem emit_pending (s : State) (e : PortEvent) : (s.emit e).pending = s.pending := rfl
@[simp] theorem emit_answer (s : State) (e : PortEvent) : (s.emit e).answer = s.answer := rfl

@[simp] theorem takeFault_cfg (s : State) (c : FaultCode) (a op : Word) : (s.takeFault c a op).cfg = s.cfg := rfl
@[simp] theorem takeFault_mem (s : State) (c : FaultCode) (a op : Word) : (s.takeFault c a op).mem = s.mem := rfl
@[simp] theorem takeFault_v (s : State) (c : FaultCode) (a op : Word) : (s.takeFault c a op).v = s.v := rfl
@[simp] theorem takeFault_i (s : State) (c : FaultCode) (a op : Word) : (s.takeFault c a op).i = s.i := rfl
@[simp] theorem takeFault_pc (s : State) (c : FaultCode) (a op : Word) : (s.takeFault c a op).pc = s.pc := rfl
@[simp] theorem takeFault_stack (s : State) (c : FaultCode) (a op : Word) : (s.takeFault c a op).stack = s.stack := rfl
@[simp] theorem takeFault_sp (s : State) (c : FaultCode) (a op : Word) : (s.takeFault c a op).sp = s.sp := rfl
@[simp] theorem takeFault_dt (s : State) (c : FaultCode) (a op : Word) : (s.takeFault c a op).dt = s.dt := rfl
@[simp] theorem takeFault_st (s : State) (c : FaultCode) (a op : Word) : (s.takeFault c a op).st = s.st := rfl
@[simp] theorem takeFault_mode (s : State) (c : FaultCode) (a op : Word) : (s.takeFault c a op).mode = s.mode := rfl
@[simp] theorem takeFault_kx (s : State) (c : FaultCode) (a op : Word) : (s.takeFault c a op).kx = s.kx := rfl
@[simp] theorem takeFault_flt (s : State) (c : FaultCode) (a op : Word) : (s.takeFault c a op).flt = c := rfl
@[simp] theorem takeFault_fltAddr (s : State) (c : FaultCode) (a op : Word) : (s.takeFault c a op).fltAddr = a := rfl
@[simp] theorem takeFault_fltOp (s : State) (c : FaultCode) (a op : Word) : (s.takeFault c a op).fltOp = op := rfl
@[simp] theorem takeFault_fb (s : State) (c : FaultCode) (a op : Word) : (s.takeFault c a op).fb = s.fb := rfl
@[simp] theorem takeFault_surface (s : State) (c : FaultCode) (a op : Word) : (s.takeFault c a op).surface = s.surface := rfl
@[simp] theorem takeFault_keys (s : State) (c : FaultCode) (a op : Word) : (s.takeFault c a op).keys = s.keys := rfl
@[simp] theorem takeFault_tone (s : State) (c : FaultCode) (a op : Word) : (s.takeFault c a op).tone = s.tone := rfl
@[simp] theorem takeFault_draws (s : State) (c : FaultCode) (a op : Word) : (s.takeFault c a op).draws = s.draws := rfl
@[simp] theorem takeFault_traceRev (s : State) (c : FaultCode) (a op : Word) : (s.takeFault c a op).traceRev = s.traceRev := rfl
@[simp] theorem takeFault_slot (s : State) (c : FaultCode) (a op : Word) : (s.takeFault c a op).slot = s.slot := rfl
@[simp] theorem takeFault_pending (s : State) (c : FaultCode) (a op : Word) : (s.takeFault c a op).pending = s.pending := rfl
@[simp] theorem takeFault_answer (s : State) (c : FaultCode) (a op : Word) : (s.takeFault c a op).answer = s.answer := rfl

@[simp] theorem clearDisplay_cfg (s : State) : (s.clearDisplay).cfg = s.cfg := rfl
@[simp] theorem clearDisplay_mem (s : State) : (s.clearDisplay).mem = s.mem := rfl
@[simp] theorem clearDisplay_v (s : State) : (s.clearDisplay).v = s.v := rfl
@[simp] theorem clearDisplay_i (s : State) : (s.clearDisplay).i = s.i := rfl
@[simp] theorem clearDisplay_pc (s : State) : (s.clearDisplay).pc = s.pc := rfl
@[simp] theorem clearDisplay_stack (s : State) : (s.clearDisplay).stack = s.stack := rfl
@[simp] theorem clearDisplay_sp (s : State) : (s.clearDisplay).sp = s.sp := rfl
@[simp] theorem clearDisplay_dt (s : State) : (s.clearDisplay).dt = s.dt := rfl
@[simp] theorem clearDisplay_st (s : State) : (s.clearDisplay).st = s.st := rfl
@[simp] theorem clearDisplay_mode (s : State) : (s.clearDisplay).mode = s.mode := rfl
@[simp] theorem clearDisplay_kx (s : State) : (s.clearDisplay).kx = s.kx := rfl
@[simp] theorem clearDisplay_flt (s : State) : (s.clearDisplay).flt = s.flt := rfl
@[simp] theorem clearDisplay_fltAddr (s : State) : (s.clearDisplay).fltAddr = s.fltAddr := rfl
@[simp] theorem clearDisplay_fltOp (s : State) : (s.clearDisplay).fltOp = s.fltOp := rfl
@[simp] theorem clearDisplay_fb (s : State) : (s.clearDisplay).fb = Screen.blank := rfl
@[simp] theorem clearDisplay_surface (s : State) : (s.clearDisplay).surface = s.surface := rfl
@[simp] theorem clearDisplay_keys (s : State) : (s.clearDisplay).keys = s.keys := rfl
@[simp] theorem clearDisplay_tone (s : State) : (s.clearDisplay).tone = s.tone := rfl
@[simp] theorem clearDisplay_draws (s : State) : (s.clearDisplay).draws = s.draws := rfl
@[simp] theorem clearDisplay_traceRev (s : State) : (s.clearDisplay).traceRev = .dispClear :: s.traceRev := rfl
@[simp] theorem clearDisplay_slot (s : State) : (s.clearDisplay).slot = s.slot := rfl
@[simp] theorem clearDisplay_pending (s : State) : (s.clearDisplay).pending = s.pending := rfl
@[simp] theorem clearDisplay_answer (s : State) : (s.clearDisplay).answer = s.answer := rfl

@[simp] theorem render_cfg (s : State) : (s.render).cfg = s.cfg := rfl
@[simp] theorem render_mem (s : State) : (s.render).mem = s.mem := rfl
@[simp] theorem render_v (s : State) : (s.render).v = s.v := rfl
@[simp] theorem render_i (s : State) : (s.render).i = s.i := rfl
@[simp] theorem render_pc (s : State) : (s.render).pc = s.pc := rfl
@[simp] theorem render_stack (s : State) : (s.render).stack = s.stack := rfl
@[simp] theorem render_sp (s : State) : (s.render).sp = s.sp := rfl
@[simp] theorem render_dt (s : State) : (s.render).dt = s.dt := rfl
@[simp] theorem render_st (s : State) : (s.render).st = s.st := rfl
@[simp] theorem render_mode (s : State) : (s.render).mode = s.mode := rfl
@[simp] theorem render_kx (s : State) : (s.render).kx = s.kx := rfl
@[simp] theorem render_flt (s : State) : (s.render).flt = s.flt := rfl
@[simp] theorem render_fltAddr (s : State) : (s.render).fltAddr = s.fltAddr := rfl
@[simp] theorem render_fltOp (s : State) : (s.render).fltOp = s.fltOp := rfl
@[simp] theorem render_fb (s : State) : (s.render).fb = s.fb := rfl
@[simp] theorem render_surface (s : State) : (s.render).surface = s.fb := rfl
@[simp] theorem render_keys (s : State) : (s.render).keys = s.keys := rfl
@[simp] theorem render_tone (s : State) : (s.render).tone = s.tone := rfl
@[simp] theorem render_draws (s : State) : (s.render).draws = s.draws := rfl
@[simp] theorem render_traceRev (s : State) : (s.render).traceRev = .dispRender :: s.traceRev := rfl
@[simp] theorem render_slot (s : State) : (s.render).slot = s.slot := rfl
@[simp] theorem render_pending (s : State) : (s.render).pending = s.pending := rfl
@[simp] theorem render_answer (s : State) : (s.render).answer = s.answer := rfl

@[simp] theorem updateTimers_cfg (s : State) : (s.updateTimers).cfg = s.cfg := rfl
@[simp] theorem updateTimers_mem (s : State) : (s.updateTimers).mem = s.mem := rfl
@[simp] theorem updateTimers_v (s : State) : (s.updateTimers).v = s.v := rfl
@[simp] theorem updateTimers_i (s : State) : (s.updateTimers).i = s.i := rfl
@[simp] theorem updateTimers_pc (s : State) : (s.updateTimers).pc = s.pc := rfl
@[simp] theorem updateTimers_stack (s : State) : (s.updateTimers).stack = s.stack := rfl
@[simp] theorem updateTimers_sp (s : State) : (s.updateTimers).sp = s.sp := rfl
@[simp] theorem updateTimers_dt (s : State) : (s.updateTimers).dt = tick s.dt := rfl
@[simp] theorem updateTimers_st (s : State) : (s.updateTimers).st = tick s.st := rfl
@[simp] theorem updateTimers_mode (s : State) : (s.updateTimers).mode = s.mode := rfl
@[simp] theorem updateTimers_kx (s : State) : (s.updateTimers).kx = s.kx := rfl
@[simp] theorem updateTimers_flt (s : State) : (s.updateTimers).flt = s.flt := rfl
@[simp] theorem updateTimers_fltAddr (s : State) : (s.updateTimers).fltAddr = s.fltAddr := rfl
@[simp] theorem updateTimers_fltOp (s : State) : (s.updateTimers).fltOp = s.fltOp := rfl
@[simp] theorem updateTimers_fb (s : State) : (s.updateTimers).fb = s.fb := rfl
@[simp] theorem updateTimers_surface (s : State) : (s.updateTimers).surface = s.surface := rfl
@[simp] theorem updateTimers_keys (s : State) : (s.updateTimers).keys = s.keys := rfl
@[simp] theorem updateTimers_tone (s : State) : (s.updateTimers).tone = s.tone := rfl
@[simp] theorem updateTimers_draws (s : State) : (s.updateTimers).draws = s.draws := rfl
@[simp] theorem updateTimers_traceRev (s : State) : (s.updateTimers).traceRev = s.traceRev := rfl
@[simp] theorem updateTimers_slot (s : State) : (s.updateTimers).slot = s.slot := rfl
@[simp] theorem updateTimers_pending (s : State) : (s.updateTimers).pending = s.pending := rfl
@[simp] theorem updateTimers_answer (s : State) : (s.updateTimers).answer = s.answer := rfl

@[simp] theorem storeBlock_cfg (s : State) (bs : List Byte) : (s.storeBlock bs).cfg = s.cfg := rfl
@[simp] theorem storeBlock_mem (s : State) (bs : List Byte) : (s.storeBlock bs).mem = Memory.writeBlock s.mem (s.ea 0) bs := rfl
@[simp] theorem storeBlock_v (s : State) (bs : List Byte) : (s.storeBlock bs).v = s.v := rfl
@[simp] theorem storeBlock_i (s : State) (bs : List Byte) : (s.storeBlock bs).i = s.i := rfl
@[simp] theorem storeBlock_pc (s : State) (bs : List Byte) : (s.storeBlock bs).pc = s.pc := rfl
@[simp] theorem storeBlock_stack (s : State) (bs : List Byte) : (s.storeBlock bs).stack = s.stack := rfl
@[simp] theorem storeBlock_sp (s : State) (bs : List Byte) : (s.storeBlock bs).sp = s.sp := rfl
@[simp] theorem storeBlock_dt (s : State) (bs : List Byte) : (s.storeBlock bs).dt = s.dt := rfl
@[simp] theorem storeBlock_st (s : State) (bs : List Byte) : (s.storeBlock bs).st = s.st := rfl
@[simp] theorem storeBlock_mode (s : State) (bs : List Byte) : (s.storeBlock bs).mode = s.mode := rfl
@[simp] theorem storeBlock_kx (s : State) (bs : List Byte) : (s.storeBlock bs).kx = s.kx := rfl
@[simp] theorem storeBlock_flt (s : State) (bs : List Byte) : (s.storeBlock bs).flt = s.flt := rfl
@[simp] theorem storeBlock_fltAddr (s : State) (bs : List Byte) : (s.storeBlock bs).fltAddr = s.fltAddr := rfl
@[simp] theorem storeBlock_fltOp (s : State) (bs : List Byte) : (s.storeBlock bs).fltOp = s.fltOp := rfl
@[simp] theorem storeBlock_fb (s : State) (bs : List Byte) : (s.storeBlock bs).fb = s.fb := rfl
@[simp] theorem storeBlock_surface (s : State) (bs : List Byte) : (s.storeBlock bs).surface = s.surface := rfl
@[simp] theorem storeBlock_keys (s : State) (bs : List Byte) : (s.storeBlock bs).keys = s.keys := rfl
@[simp] theorem storeBlock_tone (s : State) (bs : List Byte) : (s.storeBlock bs).tone = s.tone := rfl
@[simp] theorem storeBlock_draws (s : State) (bs : List Byte) : (s.storeBlock bs).draws = s.draws := rfl
@[simp] theorem storeBlock_traceRev (s : State) (bs : List Byte) : (s.storeBlock bs).traceRev = s.traceRev := rfl
@[simp] theorem storeBlock_slot (s : State) (bs : List Byte) : (s.storeBlock bs).slot = s.slot := rfl
@[simp] theorem storeBlock_pending (s : State) (bs : List Byte) : (s.storeBlock bs).pending = s.pending := rfl
@[simp] theorem storeBlock_answer (s : State) (bs : List Byte) : (s.storeBlock bs).answer = s.answer := rfl

@[simp] theorem loadRegsUpTo_cfg (s : State) (x : RegIdx) : (s.loadRegsUpTo x).cfg = s.cfg := rfl
@[simp] theorem loadRegsUpTo_mem (s : State) (x : RegIdx) : (s.loadRegsUpTo x).mem = s.mem := rfl
@[simp] theorem loadRegsUpTo_i (s : State) (x : RegIdx) : (s.loadRegsUpTo x).i = s.i := rfl
@[simp] theorem loadRegsUpTo_pc (s : State) (x : RegIdx) : (s.loadRegsUpTo x).pc = s.pc := rfl
@[simp] theorem loadRegsUpTo_stack (s : State) (x : RegIdx) : (s.loadRegsUpTo x).stack = s.stack := rfl
@[simp] theorem loadRegsUpTo_sp (s : State) (x : RegIdx) : (s.loadRegsUpTo x).sp = s.sp := rfl
@[simp] theorem loadRegsUpTo_dt (s : State) (x : RegIdx) : (s.loadRegsUpTo x).dt = s.dt := rfl
@[simp] theorem loadRegsUpTo_st (s : State) (x : RegIdx) : (s.loadRegsUpTo x).st = s.st := rfl
@[simp] theorem loadRegsUpTo_mode (s : State) (x : RegIdx) : (s.loadRegsUpTo x).mode = s.mode := rfl
@[simp] theorem loadRegsUpTo_kx (s : State) (x : RegIdx) : (s.loadRegsUpTo x).kx = s.kx := rfl
@[simp] theorem loadRegsUpTo_flt (s : State) (x : RegIdx) : (s.loadRegsUpTo x).flt = s.flt := rfl
@[simp] theorem loadRegsUpTo_fltAddr (s : State) (x : RegIdx) : (s.loadRegsUpTo x).fltAddr = s.fltAddr := rfl
@[simp] theorem loadRegsUpTo_fltOp (s : State) (x : RegIdx) : (s.loadRegsUpTo x).fltOp = s.fltOp := rfl
@[simp] theorem loadRegsUpTo_fb (s : State) (x : RegIdx) : (s.loadRegsUpTo x).fb = s.fb := rfl
@[simp] theorem loadRegsUpTo_surface (s : State) (x : RegIdx) : (s.loadRegsUpTo x).surface = s.surface := rfl
@[simp] theorem loadRegsUpTo_keys (s : State) (x : RegIdx) : (s.loadRegsUpTo x).keys = s.keys := rfl
@[simp] theorem loadRegsUpTo_tone (s : State) (x : RegIdx) : (s.loadRegsUpTo x).tone = s.tone := rfl
@[simp] theorem loadRegsUpTo_draws (s : State) (x : RegIdx) : (s.loadRegsUpTo x).draws = s.draws := rfl
@[simp] theorem loadRegsUpTo_traceRev (s : State) (x : RegIdx) : (s.loadRegsUpTo x).traceRev = s.traceRev := rfl
@[simp] theorem loadRegsUpTo_slot (s : State) (x : RegIdx) : (s.loadRegsUpTo x).slot = s.slot := rfl
@[simp] theorem loadRegsUpTo_pending (s : State) (x : RegIdx) : (s.loadRegsUpTo x).pending = s.pending := rfl
@[simp] theorem loadRegsUpTo_answer (s : State) (x : RegIdx) : (s.loadRegsUpTo x).answer = s.answer := rfl

@[simp] theorem faultFrame_cfg (s : State) : (s.faultFrame).cfg = s.cfg := rfl
@[simp] theorem faultFrame_mem (s : State) : (s.faultFrame).mem = s.mem := rfl
@[simp] theorem faultFrame_v (s : State) : (s.faultFrame).v = s.v := rfl
@[simp] theorem faultFrame_i (s : State) : (s.faultFrame).i = s.i := rfl
@[simp] theorem faultFrame_pc (s : State) : (s.faultFrame).pc = s.pc := rfl
@[simp] theorem faultFrame_stack (s : State) : (s.faultFrame).stack = s.stack := rfl
@[simp] theorem faultFrame_sp (s : State) : (s.faultFrame).sp = s.sp := rfl
@[simp] theorem faultFrame_dt (s : State) : (s.faultFrame).dt = s.dt := rfl
@[simp] theorem faultFrame_st (s : State) : (s.faultFrame).st = s.st := rfl
@[simp] theorem faultFrame_mode (s : State) : (s.faultFrame).mode = s.mode := rfl
@[simp] theorem faultFrame_kx (s : State) : (s.faultFrame).kx = s.kx := rfl
@[simp] theorem faultFrame_flt (s : State) : (s.faultFrame).flt = s.flt := rfl
@[simp] theorem faultFrame_fltAddr (s : State) : (s.faultFrame).fltAddr = s.fltAddr := rfl
@[simp] theorem faultFrame_fltOp (s : State) : (s.faultFrame).fltOp = s.fltOp := rfl
@[simp] theorem faultFrame_fb (s : State) : (s.faultFrame).fb = s.fb := rfl
@[simp] theorem faultFrame_surface (s : State) : (s.faultFrame).surface = s.surface := rfl
@[simp] theorem faultFrame_keys (s : State) : (s.faultFrame).keys = s.keys := rfl
@[simp] theorem faultFrame_tone (s : State) : (s.faultFrame).tone = s.tone := rfl
@[simp] theorem faultFrame_draws (s : State) : (s.faultFrame).draws = s.draws := rfl
@[simp] theorem faultFrame_traceRev (s : State) : (s.faultFrame).traceRev = s.traceRev := rfl
@[simp] theorem faultFrame_slot (s : State) : (s.faultFrame).slot = 0 := rfl
@[simp] theorem faultFrame_pending (s : State) : (s.faultFrame).pending = s.pending := rfl
@[simp] theorem faultFrame_answer (s : State) : (s.faultFrame).answer = some (.fault s.flt) := rfl

@[simp] theorem fetchFault_cfg (s : State) : (s.fetchFault).cfg = s.cfg := rfl
@[simp] theorem fetchFault_mem (s : State) : (s.fetchFault).mem = s.mem := rfl
@[simp] theorem fetchFault_v (s : State) : (s.fetchFault).v = s.v := rfl
@[simp] theorem fetchFault_i (s : State) : (s.fetchFault).i = s.i := rfl
@[simp] theorem fetchFault_pc (s : State) : (s.fetchFault).pc = s.pc := rfl
@[simp] theorem fetchFault_stack (s : State) : (s.fetchFault).stack = s.stack := rfl
@[simp] theorem fetchFault_sp (s : State) : (s.fetchFault).sp = s.sp := rfl
@[simp] theorem fetchFault_dt (s : State) : (s.fetchFault).dt = s.dt := rfl
@[simp] theorem fetchFault_st (s : State) : (s.fetchFault).st = s.st := rfl
@[simp] theorem fetchFault_mode (s : State) : (s.fetchFault).mode = s.mode := rfl
@[simp] theorem fetchFault_kx (s : State) : (s.fetchFault).kx = s.kx := rfl
@[simp] theorem fetchFault_flt (s : State) : (s.fetchFault).flt = .memoryBoundViolation := rfl
@[simp] theorem fetchFault_fltAddr (s : State) : (s.fetchFault).fltAddr = s.pc := rfl
@[simp] theorem fetchFault_fltOp (s : State) : (s.fetchFault).fltOp = 0 := rfl
@[simp] theorem fetchFault_fb (s : State) : (s.fetchFault).fb = s.fb := rfl
@[simp] theorem fetchFault_surface (s : State) : (s.fetchFault).surface = s.surface := rfl
@[simp] theorem fetchFault_keys (s : State) : (s.fetchFault).keys = s.keys := rfl
@[simp] theorem fetchFault_tone (s : State) : (s.fetchFault).tone = s.tone := rfl
@[simp] theorem fetchFault_draws (s : State) : (s.fetchFault).draws = s.draws := rfl
@[simp] theorem fetchFault_traceRev (s : State) : (s.fetchFault).traceRev = s.traceRev := rfl
@[simp] theorem fetchFault_slot (s : State) : (s.fetchFault).slot = s.slot := rfl
@[simp] theorem fetchFault_pending (s : State) : (s.fetchFault).pending = s.pending := rfl
@[simp] theorem fetchFault_answer (s : State) : (s.fetchFault).answer = s.answer := rfl

@[simp] theorem skipIf_cfg (s : State) (c : Bool) : (s.skipIf c).cfg = s.cfg := by
  cases c <;> rfl
@[simp] theorem skipIf_mem (s : State) (c : Bool) : (s.skipIf c).mem = s.mem := by
  cases c <;> rfl
@[simp] theorem skipIf_v (s : State) (c : Bool) : (s.skipIf c).v = s.v := by
  cases c <;> rfl
@[simp] theorem skipIf_i (s : State) (c : Bool) : (s.skipIf c).i = s.i := by
  cases c <;> rfl
@[simp] theorem skipIf_stack (s : State) (c : Bool) : (s.skipIf c).stack = s.stack := by
  cases c <;> rfl
@[simp] theorem skipIf_sp (s : State) (c : Bool) : (s.skipIf c).sp = s.sp := by
  cases c <;> rfl
@[simp] theorem skipIf_dt (s : State) (c : Bool) : (s.skipIf c).dt = s.dt := by
  cases c <;> rfl
@[simp] theorem skipIf_st (s : State) (c : Bool) : (s.skipIf c).st = s.st := by
  cases c <;> rfl
@[simp] theorem skipIf_mode (s : State) (c : Bool) : (s.skipIf c).mode = s.mode := by
  cases c <;> rfl
@[simp] theorem skipIf_kx (s : State) (c : Bool) : (s.skipIf c).kx = s.kx := by
  cases c <;> rfl
@[simp] theorem skipIf_flt (s : State) (c : Bool) : (s.skipIf c).flt = s.flt := by
  cases c <;> rfl
@[simp] theorem skipIf_fltAddr (s : State) (c : Bool) : (s.skipIf c).fltAddr = s.fltAddr := by
  cases c <;> rfl
@[simp] theorem skipIf_fltOp (s : State) (c : Bool) : (s.skipIf c).fltOp = s.fltOp := by
  cases c <;> rfl
@[simp] theorem skipIf_fb (s : State) (c : Bool) : (s.skipIf c).fb = s.fb := by
  cases c <;> rfl
@[simp] theorem skipIf_surface (s : State) (c : Bool) : (s.skipIf c).surface = s.surface := by
  cases c <;> rfl
@[simp] theorem skipIf_keys (s : State) (c : Bool) : (s.skipIf c).keys = s.keys := by
  cases c <;> rfl
@[simp] theorem skipIf_tone (s : State) (c : Bool) : (s.skipIf c).tone = s.tone := by
  cases c <;> rfl
@[simp] theorem skipIf_draws (s : State) (c : Bool) : (s.skipIf c).draws = s.draws := by
  cases c <;> rfl
@[simp] theorem skipIf_traceRev (s : State) (c : Bool) : (s.skipIf c).traceRev = s.traceRev := by
  cases c <;> rfl
@[simp] theorem skipIf_slot (s : State) (c : Bool) : (s.skipIf c).slot = s.slot := by
  cases c <;> rfl
@[simp] theorem skipIf_pending (s : State) (c : Bool) : (s.skipIf c).pending = s.pending := by
  cases c <;> rfl
@[simp] theorem skipIf_answer (s : State) (c : Bool) : (s.skipIf c).answer = s.answer := by
  cases c <;> rfl

@[simp] theorem finishSlot_cfg (s : State) : (s.finishSlot).cfg = s.cfg := by
  unfold State.finishSlot; split <;> rfl
@[simp] theorem finishSlot_mem (s : State) : (s.finishSlot).mem = s.mem := by
  unfold State.finishSlot; split <;> rfl
@[simp] theorem finishSlot_v (s : State) : (s.finishSlot).v = s.v := by
  unfold State.finishSlot; split <;> rfl
@[simp] theorem finishSlot_i (s : State) : (s.finishSlot).i = s.i := by
  unfold State.finishSlot; split <;> rfl
@[simp] theorem finishSlot_pc (s : State) : (s.finishSlot).pc = s.pc := by
  unfold State.finishSlot; split <;> rfl
@[simp] theorem finishSlot_stack (s : State) : (s.finishSlot).stack = s.stack := by
  unfold State.finishSlot; split <;> rfl
@[simp] theorem finishSlot_sp (s : State) : (s.finishSlot).sp = s.sp := by
  unfold State.finishSlot; split <;> rfl
@[simp] theorem finishSlot_dt (s : State) : (s.finishSlot).dt = s.dt := by
  unfold State.finishSlot; split <;> rfl
@[simp] theorem finishSlot_st (s : State) : (s.finishSlot).st = s.st := by
  unfold State.finishSlot; split <;> rfl
@[simp] theorem finishSlot_mode (s : State) : (s.finishSlot).mode = s.mode := by
  unfold State.finishSlot; split <;> rfl
@[simp] theorem finishSlot_kx (s : State) : (s.finishSlot).kx = s.kx := by
  unfold State.finishSlot; split <;> rfl
@[simp] theorem finishSlot_flt (s : State) : (s.finishSlot).flt = s.flt := by
  unfold State.finishSlot; split <;> rfl
@[simp] theorem finishSlot_fltAddr (s : State) : (s.finishSlot).fltAddr = s.fltAddr := by
  unfold State.finishSlot; split <;> rfl
@[simp] theorem finishSlot_fltOp (s : State) : (s.finishSlot).fltOp = s.fltOp := by
  unfold State.finishSlot; split <;> rfl
@[simp] theorem finishSlot_fb (s : State) : (s.finishSlot).fb = s.fb := by
  unfold State.finishSlot; split <;> rfl
@[simp] theorem finishSlot_surface (s : State) : (s.finishSlot).surface = s.surface := by
  unfold State.finishSlot; split <;> rfl
@[simp] theorem finishSlot_keys (s : State) : (s.finishSlot).keys = s.keys := by
  unfold State.finishSlot; split <;> rfl
@[simp] theorem finishSlot_tone (s : State) : (s.finishSlot).tone = s.tone := by
  unfold State.finishSlot; split <;> rfl
@[simp] theorem finishSlot_draws (s : State) : (s.finishSlot).draws = s.draws := by
  unfold State.finishSlot; split <;> rfl
@[simp] theorem finishSlot_traceRev (s : State) : (s.finishSlot).traceRev = s.traceRev := by
  unfold State.finishSlot; split <;> rfl
@[simp] theorem finishSlot_pending (s : State) : (s.finishSlot).pending = s.pending := by
  unfold State.finishSlot; split <;> rfl

@[simp] theorem updateSpeaker_cfg (s : State) : (s.updateSpeaker).cfg = s.cfg := by
  unfold State.updateSpeaker; split <;> rfl
@[simp] theorem updateSpeaker_mem (s : State) : (s.updateSpeaker).mem = s.mem := by
  unfold State.updateSpeaker; split <;> rfl
@[simp] theorem updateSpeaker_v (s : State) : (s.updateSpeaker).v = s.v := by
  unfold State.updateSpeaker; split <;> rfl
@[simp] theorem updateSpeaker_i (s : State) : (s.updateSpeaker).i = s.i := by
  unfold State.updateSpeaker; split <;> rfl
@[simp] theorem updateSpeaker_pc (s : State) : (s.updateSpeaker).pc = s.pc := by
  unfold State.updateSpeaker; split <;> rfl
@[simp] theorem updateSpeaker_stack (s : State) : (s.updateSpeaker).stack = s.stack := by
  unfold State.updateSpeaker; split <;> rfl
@[simp] theorem updateSpeaker_sp (s : State) : (s.updateSpeaker).sp = s.sp := by
  unfold State.updateSpeaker; split <;> rfl
@[simp] theorem updateSpeaker_dt (s : State) : (s.updateSpeaker).dt = s.dt := by
  unfold State.updateSpeaker; split <;> rfl
@[simp] theorem updateSpeaker_st (s : State) : (s.updateSpeaker).st = s.st := by
  unfold State.updateSpeaker; split <;> rfl
@[simp] theorem updateSpeaker_mode (s : State) : (s.updateSpeaker).mode = s.mode := by
  unfold State.updateSpeaker; split <;> rfl
@[simp] theorem updateSpeaker_kx (s : State) : (s.updateSpeaker).kx = s.kx := by
  unfold State.updateSpeaker; split <;> rfl
@[simp] theorem updateSpeaker_flt (s : State) : (s.updateSpeaker).flt = s.flt := by
  unfold State.updateSpeaker; split <;> rfl
@[simp] theorem updateSpeaker_fltAddr (s : State) : (s.updateSpeaker).fltAddr = s.fltAddr := by
  unfold State.updateSpeaker; split <;> rfl
@[simp] theorem updateSpeaker_fltOp (s : State) : (s.updateSpeaker).fltOp = s.fltOp := by
  unfold State.updateSpeaker; split <;> rfl
@[simp] theorem updateSpeaker_fb (s : State) : (s.updateSpeaker).fb = s.fb := by
  unfold State.updateSpeaker; split <;> rfl
@[simp] theorem updateSpeaker_surface (s : State) : (s.updateSpeaker).surface = s.surface := by
  unfold State.updateSpeaker; split <;> rfl
@[simp] theorem updateSpeaker_keys (s : State) : (s.updateSpeaker).keys = s.keys := by
  unfold State.updateSpeaker; split <;> rfl
@[simp] theorem updateSpeaker_draws (s : State) : (s.updateSpeaker).draws = s.draws := by
  unfold State.updateSpeaker; split <;> rfl
@[simp] theorem updateSpeaker_slot (s : State) : (s.updateSpeaker).slot = s.slot := by
  unfold State.updateSpeaker; split <;> rfl
@[simp] theorem updateSpeaker_pending (s : State) : (s.updateSpeaker).pending = s.pending := by
  unfold State.updateSpeaker; split <;> rfl
@[simp] theorem updateSpeaker_answer (s : State) : (s.updateSpeaker).answer = s.answer := by
  unfold State.updateSpeaker; split <;> rfl

@[simp] theorem endFrame_cfg (s : State) : (s.endFrame).cfg = s.cfg := by
  simp only [State.endFrame]; split <;> simp
@[simp] theorem endFrame_mem (s : State) : (s.endFrame).mem = s.mem := by
  simp only [State.endFrame]; split <;> simp
@[simp] theorem endFrame_v (s : State) : (s.endFrame).v = s.v := by
  simp only [State.endFrame]; split <;> simp
@[simp] theorem endFrame_i (s : State) : (s.endFrame).i = s.i := by
  simp only [State.endFrame]; split <;> simp
@[simp] theorem endFrame_pc (s : State) : (s.endFrame).pc = s.pc := by
  simp only [State.endFrame]; split <;> simp
@[simp] theorem endFrame_stack (s : State) : (s.endFrame).stack = s.stack := by
  simp only [State.endFrame]; split <;> simp
@[simp] theorem endFrame_sp (s : State) : (s.endFrame).sp = s.sp := by
  simp only [State.endFrame]; split <;> simp
@[simp] theorem endFrame_mode (s : State) : (s.endFrame).mode = s.mode := by
  simp only [State.endFrame]; split <;> simp
@[simp] theorem endFrame_kx (s : State) : (s.endFrame).kx = s.kx := by
  simp only [State.endFrame]; split <;> simp
@[simp] theorem endFrame_flt (s : State) : (s.endFrame).flt = s.flt := by
  simp only [State.endFrame]; split <;> simp
@[simp] theorem endFrame_fltAddr (s : State) : (s.endFrame).fltAddr = s.fltAddr := by
  simp only [State.endFrame]; split <;> simp
@[simp] theorem endFrame_fltOp (s : State) : (s.endFrame).fltOp = s.fltOp := by
  simp only [State.endFrame]; split <;> simp
@[simp] theorem endFrame_fb (s : State) : (s.endFrame).fb = s.fb := by
  simp only [State.endFrame]; split <;> simp
@[simp] theorem endFrame_keys (s : State) : (s.endFrame).keys = s.keys := by
  simp only [State.endFrame]; split <;> simp
@[simp] theorem endFrame_draws (s : State) : (s.endFrame).draws = s.draws := by
  simp only [State.endFrame]; split <;> simp
@[simp] theorem endFrame_pending (s : State) : (s.endFrame).pending = s.pending := by
  simp only [State.endFrame]; split <;> simp

@[simp] theorem hostKeyDown_cfg (s : State) (k : Nibble) : (hostKeyDown k s).cfg = s.cfg := by
  unfold hostKeyDown; split <;> rfl
@[simp] theorem hostKeyDown_mem (s : State) (k : Nibble) : (hostKeyDown k s).mem = s.mem := by
  unfold hostKeyDown; split <;> rfl
@[simp] theorem hostKeyDown_i (s : State) (k : Nibble) : (hostKeyDown k s).i = s.i := by
  unfold hostKeyDown; split <;> rfl
@[simp] theorem hostKeyDown_pc (s : State) (k : Nibble) : (hostKeyDown k s).pc = s.pc := by
  unfold hostKeyDown; split <;> rfl
@[simp] theorem hostKeyDown_stack (s : State) (k : Nibble) : (hostKeyDown k s).stack = s.stack := by
  unfold hostKeyDown; split <;> rfl
@[simp] theorem hostKeyDown_sp (s : State) (k : Nibble) : (hostKeyDown k s).sp = s.sp := by
  unfold hostKeyDown; split <;> rfl
@[simp] theorem hostKeyDown_dt (s : State) (k : Nibble) : (hostKeyDown k s).dt = s.dt := by
  unfold hostKeyDown; split <;> rfl
@[simp] theorem hostKeyDown_st (s : State) (k : Nibble) : (hostKeyDown k s).st = s.st := by
  unfold hostKeyDown; split <;> rfl
@[simp] theorem hostKeyDown_kx (s : State) (k : Nibble) : (hostKeyDown k s).kx = s.kx := by
  unfold hostKeyDown; split <;> rfl
@[simp] theorem hostKeyDown_flt (s : State) (k : Nibble) : (hostKeyDown k s).flt = s.flt := by
  unfold hostKeyDown; split <;> rfl
@[simp] theorem hostKeyDown_fltAddr (s : State) (k : Nibble) : (hostKeyDown k s).fltAddr = s.fltAddr := by
  unfold hostKeyDown; split <;> rfl
@[simp] theorem hostKeyDown_fltOp (s : State) (k : Nibble) : (hostKeyDown k s).fltOp = s.fltOp := by
  unfold hostKeyDown; split <;> rfl
@[simp] theorem hostKeyDown_fb (s : State) (k : Nibble) : (hostKeyDown k s).fb = s.fb := by
  unfold hostKeyDown; split <;> rfl
@[simp] theorem hostKeyDown_surface (s : State) (k : Nibble) : (hostKeyDown k s).surface = s.surface := by
  unfold hostKeyDown; split <;> rfl
@[simp] theorem hostKeyDown_keys (s : State) (k : Nibble) : (hostKeyDown k s).keys = s.keys := by
  unfold hostKeyDown; split <;> rfl
@[simp] theorem hostKeyDown_tone (s : State) (k : Nibble) : (hostKeyDown k s).tone = s.tone := by
  unfold hostKeyDown; split <;> rfl
@[simp] theorem hostKeyDown_draws (s : State) (k : Nibble) : (hostKeyDown k s).draws = s.draws := by
  unfold hostKeyDown; split <;> rfl
@[simp] theorem hostKeyDown_traceRev (s : State) (k : Nibble) : (hostKeyDown k s).traceRev = s.traceRev := by
  unfold hostKeyDown; split <;> rfl
@[simp] theorem hostKeyDown_slot (s : State) (k : Nibble) : (hostKeyDown k s).slot = s.slot := by
  unfold hostKeyDown; split <;> rfl
@[simp] theorem hostKeyDown_pending (s : State) (k : Nibble) : (hostKeyDown k s).pending = s.pending := by
  unfold hostKeyDown; split <;> rfl

@[simp] theorem hostLoadProg_cfg (s : State) (bs : List Byte) : (hostLoadProg bs s).cfg = s.cfg := by
  unfold hostLoadProg; split <;> rfl
@[simp] theorem hostLoadProg_v (s : State) (bs : List Byte) : (hostLoadProg bs s).v = s.v := by
  unfold hostLoadProg; split <;> rfl
@[simp] theorem hostLoadProg_i (s : State) (bs : List Byte) : (hostLoadProg bs s).i = s.i := by
  unfold hostLoadProg; split <;> rfl
@[simp] theorem hostLoadProg_pc (s : State) (bs : List Byte) : (hostLoadProg bs s).pc = s.pc := by
  unfold hostLoadProg; split <;> rfl
@[simp] theorem hostLoadProg_stack (s : State) (bs : List Byte) : (hostLoadProg bs s).stack = s.stack := by
  unfold hostLoadProg; split <;> rfl
@[simp] theorem hostLoadProg_sp (s : State) (bs : List Byte) : (hostLoadProg bs s).sp = s.sp := by
  unfold hostLoadProg; split <;> rfl
@[simp] theorem hostLoadProg_dt (s : State) (bs : List Byte) : (hostLoadProg bs s).dt = s.dt := by
  unfold hostLoadProg; split <;> rfl
@[simp] theorem hostLoadProg_st (s : State) (bs : List Byte) : (hostLoadProg bs s).st = s.st := by
  unfold hostLoadProg; split <;> rfl
@[simp] theorem hostLoadProg_mode (s : State) (bs : List Byte) : (hostLoadProg bs s).mode = s.mode := by
  unfold hostLoadProg; split <;> rfl
@[simp] theorem hostLoadProg_kx (s : State) (bs : List Byte) : (hostLoadProg bs s).kx = s.kx := by
  unfold hostLoadProg; split <;> rfl
@[simp] theorem hostLoadProg_flt (s : State) (bs : List Byte) : (hostLoadProg bs s).flt = s.flt := by
  unfold hostLoadProg; split <;> rfl
@[simp] theorem hostLoadProg_fltAddr (s : State) (bs : List Byte) : (hostLoadProg bs s).fltAddr = s.fltAddr := by
  unfold hostLoadProg; split <;> rfl
@[simp] theorem hostLoadProg_fltOp (s : State) (bs : List Byte) : (hostLoadProg bs s).fltOp = s.fltOp := by
  unfold hostLoadProg; split <;> rfl
@[simp] theorem hostLoadProg_fb (s : State) (bs : List Byte) : (hostLoadProg bs s).fb = s.fb := by
  unfold hostLoadProg; split <;> rfl
@[simp] theorem hostLoadProg_surface (s : State) (bs : List Byte) : (hostLoadProg bs s).surface = s.surface := by
  unfold hostLoadProg; split <;> rfl
@[simp] theorem hostLoadProg_keys (s : State) (bs : List Byte) : (hostLoadProg bs s).keys = s.keys := by
  unfold hostLoadProg; split <;> rfl
@[simp] theorem hostLoadProg_tone (s : State) (bs : List Byte) : (hostLoadProg bs s).tone = s.tone := by
  unfold hostLoadProg; split <;> rfl
@[simp] theorem hostLoadProg_draws (s : State) (bs : List Byte) : (hostLoadProg bs s).draws = s.draws := by
  unfold hostLoadProg; split <;> rfl
@[simp] theorem hostLoadProg_traceRev (s : State) (bs : List Byte) : (hostLoadProg bs s).traceRev = s.traceRev := by
  unfold hostLoadProg; split <;> rfl
@[simp] theorem hostLoadProg_slot (s : State) (bs : List Byte) : (hostLoadProg bs s).slot = s.slot := by
  unfold hostLoadProg; split <;> rfl
@[simp] theorem hostLoadProg_pending (s : State) (bs : List Byte) : (hostLoadProg bs s).pending = s.pending := by
  unfold hostLoadProg; split <;> rfl

theorem skipIf_pc (s : State) (c : Bool) : (s.skipIf c).pc = if c then s.pc + 2 else s.pc := by
  cases c <;> rfl

@[simp] theorem endFrame_slot (s : State) : s.endFrame.slot = 0 := rfl

@[simp] theorem endFrame_answer (s : State) : s.endFrame.answer = some .done := rfl

@[simp] theorem hostReset_cfg (s : State) : (hostReset s).cfg = s.cfg := rfl

@[simp] theorem hostLoadFont_cfg (s : State) : (hostLoadFont s).cfg = s.cfg := rfl

@[simp] theorem keyboardLevel_cfg (s : State) (k : Nibble) (d : Bool) : (keyboardLevel k d s).cfg = s.cfg := rfl

/-- The two ways a slot ends. -/
theorem finishSlot_cases (s : State) :
    (s.flt = .none ∧ s.finishSlot = { s with slot := s.slot + 1 }) ∨ (s.flt ≠ .none ∧ s.finishSlot = s.faultFrame) := by
  unfold State.finishSlot
  split <;> rename_i h
  · exact .inl ⟨h, rfl⟩
  · exact .inr ⟨h, rfl⟩

end Sys2Proof.Machine
end

