-- ==== Sys2Proof/Laws/Registers.lean ====
section
/-!
SUPPORT. The laws of the register file and of the call stack.
-/

namespace Sys2Proof.Machine

open Sys2Proof

/-- A read after a write of a register (10_state.md R11: no register is hardwired). -/
theorem reg_setReg (s : State) (x r : RegIdx) (b : Byte) : (s.setReg x b).reg r = if r = x then b else s.reg r := by
  simp only [State.reg, State.setReg, Vector.getElem_set, BitVec.toNat_inj, eq_comm]

@[simp] theorem reg_setReg_same (s : State) (x : RegIdx) (b : Byte) : (s.setReg x b).reg x = b := by
  simp [reg_setReg]

@[simp] theorem reg_setReg_other (s : State) {x r : RegIdx} (b : Byte) (h : r ≠ x) : (s.setReg x b).reg r = s.reg r := by
  simp [reg_setReg, h]

/-- A read after a write of the flag (10_state.md R12). -/
theorem reg_setFlag (s : State) (f : Bool) (r : RegIdx) :
    (s.setFlag f).reg r = if r = vf then (if f then 1 else 0) else s.reg r := by
  simp [State.setFlag, reg_setReg]

@[simp] theorem reg_setFlag_same (s : State) (f : Bool) : (s.setFlag f).reg vf = if f then 1 else 0 := by
  simp [reg_setFlag]

@[simp] theorem reg_setFlag_other (s : State) (f : Bool) {r : RegIdx} (h : r ≠ vf) : (s.setFlag f).reg r = s.reg r := by
  simp [reg_setFlag, h]

/-- Reading a register looks at the register file only. -/
theorem reg_congr {s t : State} (h : t.v = s.v) (r : RegIdx) : t.reg r = s.reg r := by
  simp only [State.reg, h]

@[simp] theorem reg_advance (s : State) (r : RegIdx) : s.advance.reg r = s.reg r := rfl

@[simp] theorem reg_jump (s : State) (w : Word) (r : RegIdx) : (s.jump w).reg r = s.reg r := rfl

@[simp] theorem reg_emit (s : State) (e : PortEvent) (r : RegIdx) : (s.emit e).reg r = s.reg r := rfl

@[simp] theorem reg_takeFault (s : State) (c : FaultCode) (a op : Word) (r : RegIdx) :
    (s.takeFault c a op).reg r = s.reg r := rfl

@[simp] theorem reg_skipIf (s : State) (c : Bool) (r : RegIdx) : (s.skipIf c).reg r = s.reg r := reg_congr (by simp) r

@[simp] theorem reg_storeBlock (s : State) (bs : List Byte) (r : RegIdx) : (s.storeBlock bs).reg r = s.reg r := rfl

@[simp] theorem reg_clearDisplay (s : State) (r : RegIdx) : s.clearDisplay.reg r = s.reg r := rfl

/-- A register loaded from its own address, the others unchanged (43_index_memory.md R135). -/
theorem reg_loadRegsUpTo (s : State) (x r : RegIdx) :
    (s.loadRegsUpTo x).reg r = if r.toNat ≤ x.toNat then s.loadByte r.toNat else s.reg r := by
  simp only [State.loadRegsUpTo, State.reg, Vector.getElem_ofFn]

/-- The stored block of registers: as many bytes as registers, each register at its index (43_index_memory.md R134). -/
theorem regsUpTo_length (s : State) (x : RegIdx) : (s.regsUpTo x).length = x.toNat + 1 := by
  have := x.isLt
  simp [State.regsUpTo]; omega

theorem regsUpTo_getElem (s : State) (x : RegIdx) (j : Nat) (_h : j < (s.regsUpTo x).length) (h16 : j < 16) :
    (s.regsUpTo x)[j] = s.v[j] := by
  simp [State.regsUpTo]

/-- Everything `push` can do (00_scope.md R7). -/
theorem push_cases (s : State) (w : Word) :
    (s.sp.val = 16 ∧ s.push w = none) ∨
    (∃ h : s.sp.val < 16,
      s.push w = some { s with stack := s.stack.set s.sp.val w h, sp := ⟨s.sp.val + 1, Nat.succ_lt_succ h⟩ }) := by
  by_cases h : s.sp.val < 16
  · exact .inr ⟨h, by simp [State.push, stackDepth, h]⟩
  · exact .inl ⟨by omega, by simp [State.push, stackDepth, h]⟩

/-- Everything `pop` can do (00_scope.md R7). -/
theorem pop_cases (s : State) :
    (s.sp.val = 0 ∧ s.pop = none) ∨
    (0 < s.sp.val ∧ ∃ h1 : s.sp.val - 1 < 16, ∃ h2 : s.sp.val - 1 < 17,
      s.pop = some (s.stack[s.sp.val - 1], { s with sp := ⟨s.sp.val - 1, h2⟩ })) := by
  have hlt := s.sp.isLt
  by_cases h : 0 < s.sp.val
  · exact .inr ⟨h, by omega, by omega, by simp [State.pop, h]⟩
  · exact .inl ⟨by omega, by simp [State.pop, h]⟩

@[simp] theorem trace_emit (s : State) (e : PortEvent) : (s.emit e).trace = s.trace ++ [e] := by
  simp [State.trace]

theorem trace_congr {s t : State} (h : t.traceRev = s.traceRev) : t.trace = s.trace := by
  simp only [State.trace, h]

end Sys2Proof.Machine
end

