-- ==== Sys2Proof/Laws/Draw.lean ====
section
/-!
SUPPORT. The laws of the display port: one toggle, and what drawing a sprite leaves alone.
-/

namespace Sys2Proof.Machine

open Sys2Proof

@[simp] theorem pixel_blank (px : Fin 64) (py : Fin 32) : Screen.pixel Screen.blank px py = false := by
  simp [Screen.pixel, Screen.blank]

/-- A toggle changes its own pixel and no other (60_exceptions.md R185). -/
theorem pixel_toggle (f : Screen) (px qx : Fin 64) (py qy : Fin 32) :
    Screen.pixel (Screen.toggle f px py) qx qy =
      if qx = px ∧ qy = py then !Screen.pixel f qx qy else Screen.pixel f qx qy := by
  simp only [Screen.pixel, Screen.toggle, Vector.getElem_set]
  by_cases hy : qy = py
  · subst hy
    simp only [if_true, BitVec.getLsbD_xor, BitVec.getLsbD_twoPow, and_true]
    by_cases hx : qx = px
    · subst hx; simp
    · have : ¬ px.val = qx.val := fun h => hx (Fin.ext h.symm)
      simp [hx, this]
  · have : ¬ py.val = qy.val := fun h => hy (Fin.ext h.symm)
    simp [hy, this]

/-- The state `t` differs from `s` in the framebuffer and the output trace only. -/
def SameButDisplay (s t : State) : Prop := t = { s with fb := t.fb, traceRev := t.traceRev }

theorem SameButDisplay.rfl {s : State} : SameButDisplay s s := by simp [SameButDisplay]

theorem SameButDisplay.trans {s t u : State} (h : SameButDisplay s t) (k : SameButDisplay t u) : SameButDisplay s u := by
  unfold SameButDisplay at *
  rw [k, h]

theorem setPixel_same (s : State) (x y : Nat) : SameButDisplay s (s.setPixel x y).1 := rfl

theorem drawColumn_same (x y : Nat) (b : Byte) (acc : State × Bool) (c : Nat) :
    SameButDisplay acc.1 (drawColumn x y b acc c).1 := by
  unfold drawColumn
  split
  · exact setPixel_same _ _ _
  · exact SameButDisplay.rfl

/-- Folding steps that each touch the display only touches the display only. -/
theorem foldl_same {α : Type} (f : State × Bool → α → State × Bool) (hf : ∀ acc a, SameButDisplay acc.1 (f acc a).1)
    (l : List α) (acc : State × Bool) : SameButDisplay acc.1 (l.foldl f acc).1 := by
  induction l generalizing acc with
  | nil => exact SameButDisplay.rfl
  | cons a l ih => exact (hf acc a).trans (ih (f acc a))

theorem drawRow_same (x y : Nat) (b : Byte) (acc : State × Bool) : SameButDisplay acc.1 (drawRow x y b acc).1 :=
  foldl_same _ (drawColumn_same x y b) _ acc

/-- Drawing a sprite touches the framebuffer and the output trace only (44_io_timers.md R141). -/
theorem drawSprite_same (x y n : Nat) (s : State) : SameButDisplay s (drawSprite x y n s).1 :=
  foldl_same _ (fun acc row => drawRow_same x (y + row) _ acc) _ (s, false)

end Sys2Proof.Machine
end

