-- ==== Sys2Proof/Laws/Exec.lean ====
section
/-!
SUPPORT. `exec` neither reads nor writes the slot counter of the frame step: what it answers with another counter is what it
answers, with that counter. So the slots of 40_execution_cycle.md R91 and the batch of R80 execute alike.
-/

namespace Sys2Proof.Machine

open Sys2Proof

/-- The state with another slot counter. -/
def State.withSlot (s : State) (k : Nat) : State := { s with slot := k }

/-- A drawing accumulator with another slot counter. -/
def slotAcc (k : Nat) (acc : State × Bool) : State × Bool := (acc.1.withSlot k, acc.2)

theorem drawColumn_withSlot (k x y : Nat) (b : Byte) (acc : State × Bool) (c : Nat) :
    drawColumn x y b (slotAcc k acc) c = slotAcc k (drawColumn x y b acc c) := by
  unfold drawColumn
  split <;> rfl

theorem drawRow_withSlot (k x y : Nat) (b : Byte) (acc : State × Bool) :
    drawRow x y b (slotAcc k acc) = slotAcc k (drawRow x y b acc) :=
  List.foldl_hom (slotAcc k) fun acc c => drawColumn_withSlot k x y b acc c

/-- Drawing does not look at the slot counter. -/
theorem drawSprite_withSlot (k x y n : Nat) (s : State) :
    drawSprite x y n (s.withSlot k) = slotAcc k (drawSprite x y n s) :=
  List.foldl_hom (slotAcc k) (init := (s, false)) fun acc row => drawRow_withSlot k x (y + row) (acc.1.loadByte row) acc

theorem skipIf_withSlot (k : Nat) (s : State) (c : Bool) : (s.withSlot k).skipIf c = (s.skipIf c).withSlot k := by
  unfold State.skipIf
  split <;> rfl

/-- A meaning that checks a bound first: both of its answers take the counter along. -/
theorem ite_withSlot {c : Prop} [Decidable c] (k : Nat) {a b t : State}
    (h : (if c then Host.Outcome.next a else .next b : Result) = .next t) :
    (if c then Host.Outcome.next (a.withSlot k) else .next (b.withSlot k) : Result) = .next (t.withSlot k) := by
  by_cases hc : c
  · rw [if_pos hc] at h ⊢; cases h; rfl
  · rw [if_neg hc] at h ⊢; cases h; rfl

/-- No instruction looks at the slot counter. -/
theorem exec_withSlot (i : Instr) {s t : State} (k : Nat) (h : exec i s = .next t) :
    exec i (s.withSlot k) = .next (t.withSlot k) := by
  cases i
  case drw x y n =>
    have hd : ∀ r r' : State × Bool, r' = slotAcc k r → r'.1.setFlag r'.2 = (r.1.setFlag r.2).withSlot k := by
      rintro r _ rfl; rfl
    change (if n.toNat = 0 ∨ inBounds s.i.toNat n.toNat = true then
      Host.Outcome.next ((drawSprite (s.reg x).toNat (s.reg y).toNat n.toNat (s.advance.withSlot k)).1.setFlag
        (drawSprite (s.reg x).toNat (s.reg y).toNat n.toNat (s.advance.withSlot k)).2) else _) = _
    rw [hd _ _ (drawSprite_withSlot k (s.reg x).toNat (s.reg y).toNat n.toNat s.advance)]
    exact ite_withSlot k h
  case ret =>
    change execRet s = _ at h
    change execRet (s.withSlot k) = _
    unfold execRet at h ⊢
    rcases pop_cases s.advance with ⟨h0, hp⟩ | ⟨h0, h1, h2, hp⟩
    · rw [hp] at h
      cases h
      have hk : (s.withSlot k).advance.pop = none :=
        dif_neg (by rw [show (s.withSlot k).advance.sp = s.advance.sp from rfl]; omega)
      rw [hk]; rfl
    · rw [hp] at h
      cases h
      have hk : (s.withSlot k).advance.pop = some _ := dif_pos h0
      rw [hk]; rfl
  case call nnn =>
    change execCall nnn s = _ at h
    change execCall nnn (s.withSlot k) = _
    unfold execCall at h ⊢
    rcases push_cases s.advance s.advance.pc with ⟨h0, hp⟩ | ⟨h0, hp⟩
    · rw [hp] at h
      cases h
      have hk : (s.withSlot k).advance.push (s.withSlot k).advance.pc = none :=
        dif_neg (by rw [show (s.withSlot k).advance.sp = s.advance.sp from rfl, h0]; decide)
      rw [hk]; rfl
    · rw [hp] at h
      cases h
      have hk : (s.withSlot k).advance.push (s.withSlot k).advance.pc = some _ := dif_pos h0
      rw [hk]; rfl
  case ldBVx x => exact ite_withSlot k h
  case ldMiVx x => exact ite_withSlot k h
  case ldVxMi x => exact ite_withSlot k h
  case seVxKk x kk => cases h; exact congrArg Host.Outcome.next (skipIf_withSlot k s.advance _)
  case sneVxKk x kk => cases h; exact congrArg Host.Outcome.next (skipIf_withSlot k s.advance _)
  case seVxVy x y z => cases h; exact congrArg Host.Outcome.next (skipIf_withSlot k s.advance _)
  case sneVxVy x y z => cases h; exact congrArg Host.Outcome.next (skipIf_withSlot k s.advance _)
  case skp x => cases h; exact congrArg Host.Outcome.next (skipIf_withSlot k s.advance _)
  case sknp x => cases h; exact congrArg Host.Outcome.next (skipIf_withSlot k s.advance _)
  all_goals cases h; rfl

end Sys2Proof.Machine
end

