-- ==== Sys2Proof/Laws/Memory.lean ====
section
/-!
SUPPORT. The laws of memory: a read after a write, blocks, and that every operation keeps the canonical form.
-/

namespace Sys2Proof.Machine

open Sys2Proof

@[simp] theorem read_nil (a : Nat) : Memory.read [] a = 0 := rfl

/-- Nothing is listed at an erased address. -/
theorem read_erase (m : Memory) (a c : Nat) :
    Memory.read (Memory.erase m a) c = if c = a then 0 else Memory.read m c := by
  induction m with
  | nil => simp [Memory.erase, Memory.read, unlistedByte]
  | cons e m ih =>
    obtain ⟨k, b⟩ := e
    by_cases hk : k = a
    · have : Memory.erase ((k, b) :: m) a = Memory.erase m a := by simp [Memory.erase, hk]
      rw [this, ih]
      by_cases hc : c = a
      · simp [hc]
      · simp [Memory.read, hc, show k ≠ c by omega]
    · have : Memory.erase ((k, b) :: m) a = (k, b) :: Memory.erase m a := by simp [Memory.erase, hk]
      rw [this]
      by_cases hkc : k = c
      · simp [Memory.read, hkc, show c ≠ a by omega]
      · simp [Memory.read, hkc, ih]

/-- An inserted byte is read where it was put, if nothing was listed there. -/
theorem read_insert (m : Memory) (a : Nat) (b : Byte) (c : Nat) (h : ∀ e ∈ m, e.1 ≠ a) :
    Memory.read (Memory.insert m a b) c = if c = a then b else Memory.read m c := by
  induction m with
  | nil => simp [Memory.insert, Memory.read, unlistedByte, eq_comm]
  | cons e m ih =>
    obtain ⟨k, d⟩ := e
    have hk : k ≠ a := h (k, d) (by simp)
    have ih := ih fun e he => h e (by simp [he])
    unfold Memory.insert
    split
    · simp [Memory.read, eq_comm]
    · by_cases hc : k = c
      · simp [Memory.read, hc, show c ≠ a by omega]
      · simp [Memory.read, hc, ih]

/-- Every entry left after an erasure lies elsewhere. -/
theorem erase_ne (m : Memory) (a : Nat) : ∀ e ∈ Memory.erase m a, e.1 ≠ a := by
  simp [Memory.erase]

/-- A read after a write (20_memory.md R46): the byte written at its address, the old byte everywhere else. -/
theorem read_write (m : Memory) (a : Nat) (b : Byte) (c : Nat) :
    Memory.read (Memory.write m a b) c = if c = a then b else Memory.read m c := by
  unfold Memory.write
  split <;> rename_i h
  · rw [read_erase]; simp [h, unlistedByte]
  · rw [read_insert _ _ _ _ (erase_ne m a), read_erase]
    split <;> rfl

/-- A read after a block was written: the block's byte inside it, the old byte outside. -/
theorem read_writeBlock (m : Memory) (a : Nat) (bs : List Byte) (c : Nat) :
    Memory.read (Memory.writeBlock m a bs) c =
      if h : a ≤ c ∧ c < a + bs.length then bs[c - a]'(by omega) else Memory.read m c := by
  induction bs generalizing m a with
  | nil => simp [Memory.writeBlock, show ¬ (a ≤ c ∧ c < a) by omega]
  | cons b bs ih =>
    rw [Memory.writeBlock, ih, read_write]
    by_cases h1 : a + 1 ≤ c ∧ c < a + 1 + bs.length
    · have h2 : a ≤ c ∧ c < a + (b :: bs).length := by simp; omega
      rw [dif_pos h1, dif_pos h2, List.getElem_cons]
      simp [show ¬ c - a = 0 by omega, show c - a - 1 = c - (a + 1) by omega]
    · rw [dif_neg h1]
      by_cases h2 : c = a
      · subst h2; simp
      · have : ¬ (a ≤ c ∧ c < a + (b :: bs).length) := by simp; omega
        rw [dif_neg this, if_neg h2]

theorem read_writeBlock_outside (m : Memory) (a : Nat) (bs : List Byte) (c : Nat)
    (h : ¬ (a ≤ c ∧ c < a + bs.length)) : Memory.read (Memory.writeBlock m a bs) c = Memory.read m c := by
  rw [read_writeBlock, dif_neg h]

theorem read_writeBlock_inside (m : Memory) (a : Nat) (bs : List Byte) (j : Nat) (h : j < bs.length) :
    Memory.read (Memory.writeBlock m a bs) (a + j) = bs[j] := by
  rw [read_writeBlock, dif_pos (by omega)]
  congr 1; omega

theorem erase_wf {m : Memory} (a : Nat) (h : Memory.wf m) : Memory.wf (Memory.erase m a) :=
  ⟨h.1.filter _, fun c hc => h.2 c (List.mem_of_mem_filter hc)⟩

theorem mem_insert (m : Memory) (a : Nat) (b : Byte) (e : Host.Cell) :
    e ∈ Memory.insert m a b ↔ e = (a, b) ∨ e ∈ m := by
  induction m with
  | nil => simp [Memory.insert]
  | cons d m ih =>
    obtain ⟨k, c⟩ := d
    unfold Memory.insert
    split
    · simp
    · simp only [List.mem_cons, ih]; tauto

theorem insert_wf {m : Memory} {a : Nat} {b : Byte} (h : Memory.wf m) (ha : a < memSize) (hb : b ≠ 0)
    (hne : ∀ e ∈ m, e.1 ≠ a) : Memory.wf (Memory.insert m a b) := by
  constructor
  · have hp := h.1
    clear h
    induction m with
    | nil => simp [Memory.insert]
    | cons d m ih =>
      obtain ⟨k, c⟩ := d
      have hk : k ≠ a := hne (k, c) (by simp)
      rw [List.pairwise_cons] at hp
      unfold Memory.insert
      split <;> rename_i hlt
      · simp only [List.pairwise_cons, List.mem_cons, forall_eq_or_imp]
        exact ⟨⟨hlt, fun e he => lt_trans hlt (hp.1 e he)⟩, hp.1, hp.2⟩
      · refine List.pairwise_cons.2 ⟨fun e he => ?_, ih (fun e he => hne e (by simp [he])) hp.2⟩
        rcases (mem_insert m a b e).1 he with rfl | he
        · simp only; omega
        · exact hp.1 e he
  · intro e he
    rcases (mem_insert m a b e).1 he with rfl | he
    · exact ⟨ha, hb⟩
    · exact h.2 e he

/-- A write inside the address space keeps the canonical form. -/
theorem write_wf {m : Memory} {a : Nat} (b : Byte) (h : Memory.wf m) (ha : a < memSize) :
    Memory.wf (Memory.write m a b) := by
  unfold Memory.write
  split <;> rename_i hb
  · exact erase_wf a h
  · exact insert_wf (erase_wf a h) ha hb (erase_ne m a)

/-- A block written inside the address space keeps the canonical form. -/
theorem writeBlock_wf {m : Memory} (a : Nat) (bs : List Byte) (h : Memory.wf m) (ha : a + bs.length ≤ memSize) :
    Memory.wf (Memory.writeBlock m a bs) := by
  induction bs generalizing m a with
  | nil => exact h
  | cons b bs ih =>
    simp only [List.length_cons] at ha
    exact ih (a + 1) (write_wf b h (by omega)) (by omega)

/-- The memory right after reset is in canonical form. -/
theorem reset_memory_wf : Memory.wf State.reset.mem := by decide

theorem read_eq_zero_of_lt {m : Memory} {a : Nat} (h : ∀ e ∈ m, a < e.1) : Memory.read m a = 0 := by
  induction m with
  | nil => rfl
  | cons d m ih =>
    obtain ⟨k, c⟩ := d
    have : a < k := h (k, c) (by simp)
    simp [Memory.read, show k ≠ a by omega, ih fun e he => h e (by simp [he])]

/-- Equal memories are equal data: two canonical memories that read alike are the same list. -/
theorem wf_ext {m n : Memory} (hm : Memory.wf m) (hn : Memory.wf n)
    (h : ∀ a, Memory.read m a = Memory.read n a) : m = n := by
  induction m generalizing n with
  | nil =>
    cases n with
    | nil => rfl
    | cons e n =>
      obtain ⟨k, c⟩ := e
      have := h k
      simp [Memory.read] at this
      exact absurd this.symm (hn.2 (k, c) (by simp)).2
  | cons d m ih =>
    obtain ⟨k, c⟩ := d
    cases n with
    | nil =>
      have := h k
      simp [Memory.read] at this
      exact absurd this (hm.2 (k, c) (by simp)).2
    | cons e n =>
      obtain ⟨l, b⟩ := e
      obtain ⟨hm1, hm2⟩ := hm
      obtain ⟨hn1, hn2⟩ := hn
      rw [List.pairwise_cons] at hm1 hn1
      have hkl : k = l := by
        rcases lt_trichotomy k l with hlt | heq | hgt
        · have h1 := h k
          rw [read_eq_zero_of_lt (m := (l, b) :: n) (by
            intro e he
            rcases List.mem_cons.1 he with rfl | he
            · exact hlt
            · exact lt_trans hlt (hn1.1 e he))] at h1
          simp [Memory.read] at h1
          exact absurd h1 (hm2 (k, c) (by simp)).2
        · exact heq
        · have h1 := h l
          rw [read_eq_zero_of_lt (m := (k, c) :: m) (by
            intro e he
            rcases List.mem_cons.1 he with rfl | he
            · exact hgt
            · exact lt_trans hgt (hm1.1 e he))] at h1
          simp [Memory.read] at h1
          exact absurd h1.symm (hn2 (l, b) (by simp)).2
      subst hkl
      have hcb : c = b := by simpa [Memory.read] using h k
      subst hcb
      have : m = n := ih ⟨hm1.2, fun e he => hm2 e (by simp [he])⟩ ⟨hn1.2, fun e he => hn2 e (by simp [he])⟩ (by
        intro a
        by_cases ha : a = k
        · subst ha
          rw [read_eq_zero_of_lt hm1.1, read_eq_zero_of_lt hn1.1]
        · have := h a
          simpa [Memory.read, show ¬ k = a by omega] using this)
      rw [this]

end Sys2Proof.Machine
end

