-- ==== Sys2Proof/Laws/Frame.lean ====
section
/-!
SUPPORT. The laws of the frame step and of the plan of the next step: what each sub-step does, said once.
-/

namespace Sys2Proof.Machine

open Sys2Proof

/-- The bound check as arithmetic (20_memory.md R44). -/
@[simp] theorem inBounds_iff (base len : Nat) : inBounds base len = true ↔ base + len ≤ 4096 := by
  simp [inBounds, memSize]

theorem inBounds_false (base len : Nat) : inBounds base len = false ↔ 4096 < base + len := by
  simp [inBounds, memSize]

/-- A fetch is possible when the second byte lies inside memory (40_execution_cycle.md R82). -/
theorem canFetch_iff (s : State) : s.canFetch = true ↔ s.pc.toNat + 1 ≤ 0xFFF := by
  simp only [State.canFetch, inBounds_iff]; omega

@[simp] theorem opened_cfg (s : State) : s.opened.cfg = s.cfg := by unfold State.opened; split <;> rfl
@[simp] theorem opened_mem (s : State) : s.opened.mem = s.mem := by unfold State.opened; split <;> rfl
@[simp] theorem opened_pc (s : State) : s.opened.pc = s.pc := by unfold State.opened; split <;> rfl
@[simp] theorem opened_mode (s : State) : s.opened.mode = s.mode := by unfold State.opened; split <;> rfl
@[simp] theorem opened_flt (s : State) : s.opened.flt = s.flt := by unfold State.opened; split <;> rfl
@[simp] theorem opened_slot (s : State) : s.opened.slot = s.slot := by unfold State.opened; split <;> rfl
@[simp] theorem opened_fetchWord (s : State) : s.opened.fetchWord = s.fetchWord := by
  simp only [State.fetchWord, opened_mem, opened_pc]
@[simp] theorem opened_canFetch (s : State) : s.opened.canFetch = s.canFetch := by
  simp only [State.canFetch, opened_pc]

/-- Opening a frame step changes the host's script only. -/
theorem opened_eq (s : State) : s.opened = { s with pending := s.opened.pending } := by
  unfold State.opened; split <;> rfl

/-- Inside a frame step nothing is taken from the host's script. -/
theorem opened_of_slot {s : State} (h : s.slot ≠ 0) : s.opened = s := by
  unfold State.opened; rw [if_neg h]

/-- The next step's plan, when the next step is a sub-step of a frame step. -/
theorem plan_of_ticks {s : State} (h : s.ticksNext) : plan s = planTick s.opened := by
  unfold plan State.opened
  split <;> rename_i h0
  · rcases h h0 with h1 | h1
    · rw [h1]; simp only [List.tail_nil]
      congr 1
      rw [← h1]
    · cases hp : s.pending with
      | nil => simp [hp] at h1
      | cons e r =>
        rw [hp] at h1
        simp only [List.head?_cons, Option.some.injEq] at h1
        subst h1; rfl
  · rfl

/-- Everything the next step can be: a sub-step of a frame step, or one host transaction between frame steps. -/
theorem plan_cases (s : State) :
    (s.ticksNext ∧ plan s = planTick s.opened) ∨
    (s.slot = 0 ∧ ∃ e rest, s.pending = e :: rest ∧ e ≠ .frameTick ∧
      ((e = .reset ∧ plan s = .move (hostReset { s with pending := rest })) ∨
       (e = .loadFont ∧ plan s = .move (hostLoadFont { s with pending := rest })) ∨
       (∃ bytes, e = .loadProg bytes ∧ plan s = .move (hostLoadProg bytes { s with pending := rest })) ∨
       (∃ k, e = .keyDown k ∧ plan s = .move (hostKeyDown k { s with pending := rest })) ∨
       (∃ k d, e = .keyLevel k d ∧ plan s = .move (keyboardLevel k d { s with pending := rest })))) := by
  by_cases h0 : s.slot = 0
  · cases hp : s.pending with
    | nil => exact .inl ⟨fun _ => .inl hp, plan_of_ticks fun _ => .inl hp⟩
    | cons e rest =>
      cases e with
      | frameTick =>
        have ht : s.ticksNext := fun _ => .inr (by simp [hp])
        exact .inl ⟨ht, plan_of_ticks ht⟩
      | keyLevel k d =>
        exact .inr ⟨h0, _, _, rfl, by simp, .inr (.inr (.inr (.inr ⟨k, d, rfl, by simp only [plan, h0, hp, if_true]⟩)))⟩
      | _ => refine .inr ⟨h0, _, _, rfl, by simp, ?_⟩; simp [plan, h0, hp]
  · exact .inl ⟨fun h => absurd h h0, plan_of_ticks fun h => absurd h h0⟩

/-- Everything a sub-step of a frame step can be (40_execution_cycle.md R80 to R82, R89 to R91). -/
theorem planTick_cases {s : State} (h : 1 ≤ s.cfg.speed) :
    (s.flt ≠ .none ∧ planTick s = .move s.faultFrame) ∨
    (s.flt = .none ∧ s.slot < s.cfg.speed ∧ s.mode = .awaitKey ∧ planTick s = .move { s with slot := s.slot + 1 }) ∨
    (s.flt = .none ∧ s.slot < s.cfg.speed ∧ s.mode = .running ∧ s.pc.toNat + 1 ≤ 0xFFF ∧
      planTick s = .run (decode s.fetchWord) s) ∨
    (s.flt = .none ∧ s.slot < s.cfg.speed ∧ s.mode = .running ∧ 0xFFF < s.pc.toNat + 1 ∧
      planTick s = .move s.fetchFault.faultFrame) ∨
    (s.flt = .none ∧ s.cfg.speed ≤ s.slot ∧ planTick s = .move s.endFrame) := by
  have h0 : ¬ s.cfg.speed = 0 := by omega
  by_cases hf : s.flt = .none
  · by_cases hs : s.slot < s.cfg.speed
    · have hm : s.mode = .awaitKey ∨ s.mode = .running := by cases s.mode <;> simp
      rcases hm with hm | hm
      · refine .inr (.inl ⟨hf, hs, hm, ?_⟩)
        unfold planTick State.finishSlot
        rw [if_neg h0, if_neg (not_not.2 hf), if_pos hs, hm, if_pos hf]
      · by_cases hp : s.pc.toNat + 1 ≤ 0xFFF
        · refine .inr (.inr (.inl ⟨hf, hs, hm, hp, ?_⟩))
          unfold planTick
          rw [if_neg h0, if_neg (not_not.2 hf), if_pos hs, hm]
          exact if_pos ((canFetch_iff s).2 hp)
        · refine .inr (.inr (.inr (.inl ⟨hf, hs, hm, by omega, ?_⟩)))
          unfold planTick
          rw [if_neg h0, if_neg (not_not.2 hf), if_pos hs, hm]
          exact if_neg (mt (canFetch_iff s).1 hp)
    · refine .inr (.inr (.inr (.inr ⟨hf, by omega, ?_⟩)))
      unfold planTick
      rw [if_neg h0, if_neg (not_not.2 hf), if_neg hs]
  · refine .inl ⟨hf, ?_⟩
    unfold planTick
    rw [if_neg h0, if_pos hf]

theorem planTick_of_fault {s : State} (h : 1 ≤ s.cfg.speed) (hf : s.flt ≠ .none) : planTick s = .move s.faultFrame := by
  unfold planTick
  rw [if_neg (by omega), if_pos hf]

theorem planTick_of_waiting {s : State} (hf : s.flt = .none) (hs : s.slot < s.cfg.speed) (hm : s.mode = .awaitKey) :
    planTick s = .move { s with slot := s.slot + 1 } := by
  rcases planTick_cases (s := s) (by omega) with h | h | h | h | h
  · exact absurd hf h.1
  · exact h.2.2.2
  · simp [hm] at h
  · simp [hm] at h
  · omega

theorem planTick_of_run {s : State} (hf : s.flt = .none) (hs : s.slot < s.cfg.speed) (hm : s.mode = .running)
    (hp : s.pc.toNat + 1 ≤ 0xFFF) : planTick s = .run (decode s.fetchWord) s := by
  rcases planTick_cases (s := s) (by omega) with h | h | h | h | h
  · exact absurd hf h.1
  · simp [hm] at h
  · exact h.2.2.2.2
  · omega
  · omega

theorem planTick_of_fetchFault {s : State} (hf : s.flt = .none) (hs : s.slot < s.cfg.speed) (hm : s.mode = .running)
    (hp : 0xFFF < s.pc.toNat + 1) : planTick s = .move s.fetchFault.faultFrame := by
  rcases planTick_cases (s := s) (by omega) with h | h | h | h | h
  · exact absurd hf h.1
  · simp [hm] at h
  · omega
  · exact h.2.2.2.2
  · omega

theorem planTick_of_end {s : State} (h1 : 1 ≤ s.cfg.speed) (hf : s.flt = .none) (hs : s.cfg.speed ≤ s.slot) :
    planTick s = .move s.endFrame := by
  rcases planTick_cases h1 with h | h | h | h | h
  · exact absurd hf h.1
  · omega
  · omega
  · omega
  · exact h.2.2

/-- Without `SPEED` a frame step cannot start. -/
theorem planTick_speedZero {s : State} (h : s.cfg.speed = 0) : planTick s = .halt .speedZero := by
  simp [planTick, h]

/-- A step that executes no instruction. -/
theorem step_of_move {s t : State} (h : plan s = .move t) : step s = .next t := by
  unfold step; rw [h]

/-- A step that executes an instruction. -/
theorem step_of_run {s t u : State} {i : Instr} (h : plan s = .run i t) (he : exec i t = .next u) :
    step s = .next u.finishSlot := by
  unfold step; rw [h]; dsimp only; rw [he]

/-- A timer's tick as arithmetic: one less, and 0 stays 0 (40_execution_cycle.md R83). -/
theorem tick_toNat (b : Byte) : (tick b).toNat = b.toNat - 1 := by
  unfold tick
  split <;> rename_i h
  · rw [BitVec.toNat_sub]; have := b.isLt; simp; omega
  · omega

/-- The end of a frame, field by field (40_execution_cycle.md R80, R83, R84). -/
theorem endFrame_eq (s : State) :
    s.endFrame = { s with
      dt := if s.mode = .running then tick s.dt else s.dt
      st := if s.mode = .running then tick s.st else s.st
      tone := decide ((if s.mode = .running then tick s.st else s.st).toNat > 0)
      surface := s.fb
      traceRev := .dispRender ::
        (if (if s.mode = .running then tick s.st else s.st).toNat > 0 then .spkPlay toneHz else .spkStop) :: s.traceRev
      slot := 0
      answer := some .done } := by
  simp only [State.endFrame, State.updateSpeaker, State.updateTimers, State.render, State.emit]
  by_cases hm : s.mode = .running
  · simp only [hm, if_true]
    split <;> simp_all
  · simp only [hm, if_false]
    split <;> simp_all

end Sys2Proof.Machine
end

