-- ==== Sys2Proof/Laws/PerInstr.lean ====
section
/-!
SUPPORT. The family `EncodesItsRow`: every instruction's word has the fixed bits that spec/opcode_table.json gives its row
(30_encoding.md R66, R67): `op & mask = match`.
-/

namespace Sys2Proof.Laws.EncodesItsRow

open Sys2Proof

/-- The mask of the instruction's row in the table. -/
def rowMask : Instr → Word
  | .cls | .ret => 0xFFFF
  | .jp _ | .call _ | .seVxKk _ _ | .sneVxKk _ _ | .seVxVy _ _ _ | .ldVxKk _ _ | .addVxKk _ _ | .sneVxVy _ _ _ | .ldINnn _
  | .jpV0 _ | .rnd _ _ | .drw _ _ _ | .unk0 _ | .unk8 _ _ _ | .unkE _ _ | .unkF _ _ => 0xF000
  | .ldVxVy _ _ | .orVxVy _ _ | .andVxVy _ _ | .xorVxVy _ _ | .addVxVy _ _ | .subVxVy _ _ | .shrVx _ _ | .subnVxVy _ _
  | .shlVx _ _ => 0xF00F
  | .skp _ | .sknp _ | .ldVxDt _ | .ldVxK _ | .ldDtVx _ | .ldStVx _ | .addIVx _ | .ldFVx _ | .ldBVx _ | .ldMiVx _
  | .ldVxMi _ => 0xF0FF

/-- The match value of the instruction's row in the table. -/
def rowMatch : Instr → Word
  | .cls => 0x00E0
  | .ret => 0x00EE
  | .jp _ => 0x1000
  | .call _ => 0x2000
  | .seVxKk _ _ => 0x3000
  | .sneVxKk _ _ => 0x4000
  | .seVxVy _ _ _ => 0x5000
  | .ldVxKk _ _ => 0x6000
  | .addVxKk _ _ => 0x7000
  | .ldVxVy _ _ => 0x8000
  | .orVxVy _ _ => 0x8001
  | .andVxVy _ _ => 0x8002
  | .xorVxVy _ _ => 0x8003
  | .addVxVy _ _ => 0x8004
  | .subVxVy _ _ => 0x8005
  | .shrVx _ _ => 0x8006
  | .subnVxVy _ _ => 0x8007
  | .shlVx _ _ => 0x800E
  | .sneVxVy _ _ _ => 0x9000
  | .ldINnn _ => 0xA000
  | .jpV0 _ => 0xB000
  | .rnd _ _ => 0xC000
  | .drw _ _ _ => 0xD000
  | .skp _ => 0xE09E
  | .sknp _ => 0xE0A1
  | .ldVxDt _ => 0xF007
  | .ldVxK _ => 0xF00A
  | .ldDtVx _ => 0xF015
  | .ldStVx _ => 0xF018
  | .addIVx _ => 0xF01E
  | .ldFVx _ => 0xF029
  | .ldBVx _ => 0xF033
  | .ldMiVx _ => 0xF055
  | .ldVxMi _ => 0xF065
  | .unk0 _ => 0x0000
  | .unk8 _ _ _ => 0x8000
  | .unkE _ _ => 0xE000
  | .unkF _ _ => 0xF000

/-- The instruction's word lies in its row. -/
def Statement (i : Instr) : Prop := encode i &&& rowMask i = rowMatch i

/-- The bitwise and of two concatenations, part by part. -/
theorem append_and {v w : Nat} (a c : BitVec v) (b d : BitVec w) : (a ++ b) &&& (c ++ d) = (a &&& c) ++ (b &&& d) := by
  apply BitVec.eq_of_getLsbD_eq
  intro j hj
  simp only [BitVec.getLsbD_and, BitVec.getLsbD_append]
  split <;> rfl

theorem and_none {w : Nat} (a : BitVec w) : a &&& 0 = 0 := by simp

theorem and_full (f : Nibble) : f &&& 0xF = f := by
  revert f; decide

/-- A word of format `A` under the mask of its family. -/
theorem mask_A (f : Nibble) (a : Imm12) : encodeA f a &&& 0xF000 = encodeA f 0 :=
  (append_and f (0xF : Nibble) a (0 : Imm12)).trans (by rw [and_full, and_none]; rfl)

/-- A word of formats `XK` and `XS` is its family and `x`, then its low byte. -/
theorem mask_XK (f x : Nibble) (k m : Byte) :
    encodeXK f x k &&& ((0xF0 : Byte) ++ m : BitVec 16) = ((f ++ (0 : Nibble) : BitVec 8) ++ (k &&& m) : BitVec 16) := by
  have h : (f ++ x : BitVec 8) &&& 0xF0 = f ++ (0 : Nibble) :=
    (append_and f (0xF : Nibble) x (0 : Nibble)).trans (by rw [and_full, and_none])
  exact (append_and (f ++ x : BitVec 8) (0xF0 : Byte) k m).trans (by rw [h])

theorem mask_XK_family (f x : Nibble) (k : Byte) : encodeXK f x k &&& 0xF000 = encodeXK f 0 0 :=
  (mask_XK f x k 0).trans (by rw [and_none]; rfl)

theorem mask_XK_key (f x : Nibble) (k : Byte) : encodeXK f x k &&& 0xF0FF = encodeXK f 0 k :=
  (mask_XK f x k 0xFF).trans (by rw [show (0xFF : Byte) = BitVec.allOnes 8 from rfl, BitVec.and_allOnes]; rfl)

theorem mask_XY_family (f x y n : Nibble) : encodeXY f x y n &&& 0xF000 = encodeXY f 0 0 0 := by
  have h : encodeXY f x y n = encodeXK f x (y ++ n) := by
    rw [← encodeXK_fields (encodeXY f x y n), fieldKk_eq]; simp
  rw [h, mask_XK_family]
  clear h; revert f; decide

theorem mask_XY_key (f x y n : Nibble) : encodeXY f x y n &&& 0xF00F = encodeXY f 0 0 n := by
  have h : encodeXY f x y n = encodeXK f x (y ++ n) := by
    rw [← encodeXK_fields (encodeXY f x y n), fieldKk_eq]; simp
  have hk : (y ++ n : BitVec 8) &&& 0x0F = (0 : Nibble) ++ n :=
    (append_and y (0 : Nibble) n (0xF : Nibble)).trans (by rw [and_full, and_none])
  rw [h]
  refine (mask_XK f x (y ++ n) 0x0F).trans ?_
  rw [hk]
  clear h hk; revert f n; decide

theorem cls : Statement .cls := rfl

theorem ret : Statement .ret := rfl

theorem jp (nnn : Imm12) : Statement (.jp nnn) := mask_A 0x1 _

theorem call (nnn : Imm12) : Statement (.call nnn) := mask_A 0x2 _

theorem seVxKk (x : RegIdx) (kk : Byte) : Statement (.seVxKk x kk) := mask_XK_family 0x3 _ _

theorem sneVxKk (x : RegIdx) (kk : Byte) : Statement (.sneVxKk x kk) := mask_XK_family 0x4 _ _

theorem seVxVy (x : RegIdx) (y : RegIdx) (z : Nibble) : Statement (.seVxVy x y z) := mask_XY_family 0x5 _ _ _

theorem ldVxKk (x : RegIdx) (kk : Byte) : Statement (.ldVxKk x kk) := mask_XK_family 0x6 _ _

theorem addVxKk (x : RegIdx) (kk : Byte) : Statement (.addVxKk x kk) := mask_XK_family 0x7 _ _

theorem ldVxVy (x : RegIdx) (y : RegIdx) : Statement (.ldVxVy x y) := mask_XY_key 0x8 _ _ 0x0

theorem orVxVy (x : RegIdx) (y : RegIdx) : Statement (.orVxVy x y) := mask_XY_key 0x8 _ _ 0x1

theorem andVxVy (x : RegIdx) (y : RegIdx) : Statement (.andVxVy x y) := mask_XY_key 0x8 _ _ 0x2

theorem xorVxVy (x : RegIdx) (y : RegIdx) : Statement (.xorVxVy x y) := mask_XY_key 0x8 _ _ 0x3

theorem addVxVy (x : RegIdx) (y : RegIdx) : Statement (.addVxVy x y) := mask_XY_key 0x8 _ _ 0x4

theorem subVxVy (x : RegIdx) (y : RegIdx) : Statement (.subVxVy x y) := mask_XY_key 0x8 _ _ 0x5

theorem shrVx (x : RegIdx) (z : Nibble) : Statement (.shrVx x z) := mask_XY_key 0x8 _ _ 0x6

theorem subnVxVy (x : RegIdx) (y : RegIdx) : Statement (.subnVxVy x y) := mask_XY_key 0x8 _ _ 0x7

theorem shlVx (x : RegIdx) (z : Nibble) : Statement (.shlVx x z) := mask_XY_key 0x8 _ _ 0xE

theorem sneVxVy (x : RegIdx) (y : RegIdx) (z : Nibble) : Statement (.sneVxVy x y z) := mask_XY_family 0x9 _ _ _

theorem ldINnn (nnn : Imm12) : Statement (.ldINnn nnn) := mask_A 0xA _

theorem jpV0 (nnn : Imm12) : Statement (.jpV0 nnn) := mask_A 0xB _

theorem rnd (x : RegIdx) (kk : Byte) : Statement (.rnd x kk) := mask_XK_family 0xC _ _

theorem drw (x : RegIdx) (y : RegIdx) (n : Nibble) : Statement (.drw x y n) := mask_XY_family 0xD _ _ _

theorem skp (x : RegIdx) : Statement (.skp x) := mask_XK_key 0xE _ 0x9E

theorem sknp (x : RegIdx) : Statement (.sknp x) := mask_XK_key 0xE _ 0xA1

theorem ldVxDt (x : RegIdx) : Statement (.ldVxDt x) := mask_XK_key 0xF _ 0x07

theorem ldVxK (x : RegIdx) : Statement (.ldVxK x) := mask_XK_key 0xF _ 0x0A

theorem ldDtVx (x : RegIdx) : Statement (.ldDtVx x) := mask_XK_key 0xF _ 0x15

theorem ldStVx (x : RegIdx) : Statement (.ldStVx x) := mask_XK_key 0xF _ 0x18

theorem addIVx (x : RegIdx) : Statement (.addIVx x) := mask_XK_key 0xF _ 0x1E

theorem ldFVx (x : RegIdx) : Statement (.ldFVx x) := mask_XK_key 0xF _ 0x29

theorem ldBVx (x : RegIdx) : Statement (.ldBVx x) := mask_XK_key 0xF _ 0x33

theorem ldMiVx (x : RegIdx) : Statement (.ldMiVx x) := mask_XK_key 0xF _ 0x55

theorem ldVxMi (x : RegIdx) : Statement (.ldVxMi x) := mask_XK_key 0xF _ 0x65

theorem unk0 (nnn : Imm12) : Statement (.unk0 nnn) := mask_A 0x0 _

theorem unk8 (x : RegIdx) (y : RegIdx) (n : Nibble) : Statement (.unk8 x y n) := mask_XY_family 0x8 _ _ _

theorem unkE (x : RegIdx) (kk : Byte) : Statement (.unkE x kk) := mask_XK_family 0xE _ _

theorem unkF (x : RegIdx) (kk : Byte) : Statement (.unkF x kk) := mask_XK_family 0xF _ _

end Sys2Proof.Laws.EncodesItsRow
end

