-- ==== Sys2Proof/Tests/Slice0.lean ====
section
/-!
SUPPORT. The model's own tests: the well-formedness checks, one word per constructor written out from the spec's encoding,
small one-step tests, and a witness for the hypotheses of each statement. Every expected result is taken from the tables of
95_test_vectors.md; the vector's id stands in the comment.
-/

namespace Sys2Proof.Tests

open Sys2Proof Sys2Proof.Machine

/-- The state after one instruction, if it answers a next state. -/
def after (op : Word) (s : State) : Option State :=
  match exec (decode op) s with
  | .next t => some t
  | .fault _ => none
  | .refused _ => none

/-- The state after one step of the machine, if it answers a next state. -/
def afterStep (s : State) : Option State :=
  match step s with
  | .next t => some t
  | .fault _ => none
  | .refused _ => none

/-- The reset state with some registers set. -/
def regs (l : List (RegIdx × Byte)) : State := l.foldl (fun s e => s.setReg e.1 e.2) State.reset

/-- The reset state with one register in each of two places, and some bytes in memory with `I` at the first. -/
def sprite (x : Byte) (y : Byte) (base : Word) (bytes : List Byte) : State :=
  { regs [(1, x), (2, y)] with i := base, mem := Memory.writeBlock [] base.toNat bytes }

/-- The three bytes from an address. -/
def bytes3 (s : State) (a : Nat) : List Byte := [Memory.read s.mem a, Memory.read s.mem (a + 1), Memory.read s.mem (a + 2)]

/-! ### Well-formedness: one ill-formed term for each check -/

theorem test_wf_unk0_is_not_cls : (Instr.unk0 0x0E0).wellFormed = false := by decide

theorem test_wf_unk0_is_not_ret : (Instr.unk0 0x0EE).wellFormed = false := by decide

theorem test_wf_unk8_is_not_known : fam8Known.all (fun n => !(Instr.unk8 1 2 n).wellFormed) = true := by decide

theorem test_wf_unkE_is_not_known : famEKnown.all (fun kk => !(Instr.unkE 1 kk).wellFormed) = true := by decide

theorem test_wf_unkF_is_not_known : famFKnown.all (fun kk => !(Instr.unkF 1 kk).wellFormed) = true := by decide

theorem test_wf_accepts_reserved_words :
    ([.unk0 0x0E1, .unk8 1 2 0x8, .unkE 1 0x9F, .unkF 1 0x75] : List Instr).all Instr.wellFormed = true := by decide

/-! ### Decoding: each constructor by a word put together from the formats of 30_encoding.md R62 and the map of R66 -/

-- families 0, 1, 2: fam nnn, and the two whole words 00E0 and 00EE
theorem test_decode_control :
    decode 0b0000000011100000 = .cls ∧ decode 0b0000000011101110 = .ret ∧
    decode 0b0001001000110100 = .jp 0x234 ∧ decode 0b0010001100000000 = .call 0x300 ∧
    decode 0b1011111111111111 = .jpV0 0xFFF ∧ decode 0b1010001011110000 = .ldINnn 0x2F0 := by decide

-- families 3, 4, 6, 7, C: fam x kk
theorem test_decode_immediate :
    decode 0b0011101000000101 = .seVxKk 0xA 0x05 ∧ decode 0b0100101000000101 = .sneVxKk 0xA 0x05 ∧
    decode 0b0110111110101011 = .ldVxKk 0xF 0xAB ∧ decode 0b0111000111111111 = .addVxKk 0x1 0xFF ∧
    decode 0b1100101000001111 = .rnd 0xA 0x0F := by decide

-- E6: the low nibble of families 5 and 9 is not decoded
theorem test_decode_register_skips :
    decode 0b0101000100100001 = .seVxVy 1 2 0x1 ∧ decode 0b1001000100101111 = .sneVxVy 1 2 0xF := by decide

-- family 8: fam x y n
theorem test_decode_alu :
    decode 0b1000000100100000 = .ldVxVy 1 2 ∧ decode 0b1000000100100001 = .orVxVy 1 2 ∧
    decode 0b1000000100100010 = .andVxVy 1 2 ∧ decode 0b1000000100100011 = .xorVxVy 1 2 ∧
    decode 0b1000000100100100 = .addVxVy 1 2 ∧ decode 0b1000000100100101 = .subVxVy 1 2 ∧
    decode 0b1000000100100110 = .shrVx 1 2 ∧ decode 0b1000000100100111 = .subnVxVy 1 2 ∧
    decode 0b1000000100101110 = .shlVx 1 2 := by decide

-- families D, E, F: fam x y n and fam x with a fixed low byte
theorem test_decode_io_and_memory :
    decode 0b1101000100100101 = .drw 1 2 5 ∧ decode 0b1110001110011110 = .skp 3 ∧ decode 0b1110001110100001 = .sknp 3 ∧
    decode 0b1111010100000111 = .ldVxDt 5 ∧ decode 0b1111001100001010 = .ldVxK 3 ∧
    decode 0b1111010100010101 = .ldDtVx 5 ∧ decode 0b1111010100011000 = .ldStVx 5 ∧
    decode 0b1111001000011110 = .addIVx 2 ∧ decode 0b1111010000101001 = .ldFVx 4 ∧
    decode 0b1111000000110011 = .ldBVx 0 ∧ decode 0b1111111101010101 = .ldMiVx 0xF ∧
    decode 0b1111001001100101 = .ldVxMi 2 := by decide

-- E5, E7, E8, E9: words near an instruction that are none
theorem test_decode_reserved :
    decode 0x00E1 = .unk0 0x0E1 ∧ decode 0x01E0 = .unk0 0x1E0 ∧ decode 0x812D = .unk8 1 2 0xD ∧
    decode 0x812F = .unk8 1 2 0xF ∧ decode 0xE100 = .unkE 1 0x00 ∧ decode 0xF100 = .unkF 1 0x00 ∧
    decode 0xF1FF = .unkF 1 0xFF := by decide

-- 20_memory.md R41: the byte at the lower address is the high one; too few bytes are rejected by name
theorem test_decode_bytes :
    decodeBytes [0x60, 0x05, 0x70] = .ok (.ldVxKk 0 0x05, [0x70]) ∧ decodeBytes [0x60] = .error .truncated ∧
    decodeBytes [] = .error .truncated := ⟨rfl, rfl, rfl⟩

theorem test_encode_bytes : encodeBytes (.addVxVy 0xA 0xB) = [0x8A, 0xB4] := by decide

theorem test_decode_table_word : decodeTableWord 16 0x8AB4 = some (.addVxVy 0xA 0xB) := by decide

/-! ### Fetching and running the placed word as the first instruction after reset -/

-- A1
theorem test_placed_word_runs :
    (afterStep (State.reset.withFetchWord 16 0x6005)).map (fun t => (t.reg 0, t.pc)) = some (0x05, 0x0202) := by decide

theorem test_placed_word_changes_memory_only :
    (State.reset.withFetchWord 16 0x6005).mem = [(0x200, 0x60), (0x201, 0x05)] ∧
    (State.reset.withFetchWord 16 0x6005).pc = 0x200 := by decide

-- E2: an odd address
theorem test_fetch_odd :
    ({ State.reset with pc := 0x0201, mem := [(0x201, 0xD1), (0x202, 0x25)] } : State).fetchWord = 0xD125 := by decide

-- E3, E4: the last legal fetch address and the first illegal one
theorem test_fetch_bound :
    ({ State.reset with pc := 0x0FFE } : State).canFetch = true ∧
    (afterStep { State.reset with pc := 0x0FFF }).map (fun t => (t.flt.code, t.fltAddr, t.fltOp, t.pc)) =
      some (4, 0x0FFF, 0, 0x0FFF) := by decide

/-! ### Control flow -/

-- C1, C2
theorem test_jp : (after 0x1234 State.reset).map State.pc = some 0x0234 ∧
    (after 0x1FFF State.reset).map State.pc = some 0x0FFF := by decide

-- C4
theorem test_call :
    (after 0x2300 { State.reset with pc := 0x0204 }).map (fun t => (t.stack[0], t.sp, t.pc)) =
      some (0x0206, 1, 0x0300) := by decide

-- C5
theorem test_call_overflow :
    (after 0x2300 { State.reset with pc := 0x0400, sp := 16 }).map (fun t => (t.flt.code, t.fltAddr, t.fltOp, t.pc, t.sp)) =
      some (3, 0x0400, 0x2300, 0x0402, 16) := by decide

-- C6
theorem test_ret :
    (after 0x00EE { State.reset with sp := 1, stack := State.reset.stack.set 0 0x0206, pc := 0x0300 }).map
      (fun t => (t.pc, t.sp)) = some (0x0206, 0) := by decide

-- C7
theorem test_ret_underflow :
    (after 0x00EE State.reset).map (fun t => (t.flt.code, t.fltAddr, t.fltOp, t.pc, t.sp)) =
      some (2, 0x0200, 0x00EE, 0x0202, 0) := by decide

-- C8, C9
theorem test_jp_v0 : (after 0xB300 (regs [(0, 0x10)])).map State.pc = some 0x0310 ∧
    (after 0xBFFF (regs [(0, 0xFF)])).map State.pc = some 0x10FE := by decide

-- C10, C11
theorem test_se_kk : (after 0x3A05 (regs [(0xA, 5)])).map State.pc = some 0x0204 ∧
    (after 0x3A05 (regs [(0xA, 6)])).map State.pc = some 0x0202 := by decide

-- C12, C13
theorem test_sne_kk : (after 0x4A05 (regs [(0xA, 5)])).map State.pc = some 0x0202 ∧
    (after 0x4A05 (regs [(0xA, 6)])).map State.pc = some 0x0204 := by decide

-- C15, C18, C21
theorem test_se_vy : (after 0x5120 (regs [(1, 7), (2, 8)])).map State.pc = some 0x0202 ∧
    (after 0x5121 (regs [(1, 7), (2, 7)])).map (fun t => (t.pc, t.trace)) = some (0x0204, []) ∧
    (after 0x5330 (regs [(3, 9)])).map State.pc = some 0x0204 := by decide

-- C16, C19, C22
theorem test_sne_vy : (after 0x9120 (regs [(1, 7), (2, 8)])).map State.pc = some 0x0204 ∧
    (after 0x912F (regs [(1, 7), (2, 7)])).map State.pc = some 0x0202 ∧
    (after 0x9330 (regs [(3, 9)])).map State.pc = some 0x0202 := by decide

-- C20
theorem test_skip_past_memory : (after 0x3000 { State.reset with pc := 0x0FFE }).map State.pc = some 0x1002 := by decide

/-! ### Arithmetic and logic -/

-- A2
theorem test_ld_kk : (after 0x6FAB State.reset).map (State.reg · 0xF) = some 0xAB := by decide

-- A4, A6
theorem test_add_kk : (after 0x7101 (regs [(1, 0xFF)])).map (fun t => (t.reg 1, t.reg 0xF)) = some (0x00, 0) ∧
    (after 0x7FFF (regs [(0xF, 1)])).map (State.reg · 0xF) = some 0x00 := by decide

-- A7
theorem test_ld_vy : (after 0x8120 (regs [(2, 0x7E)])).map (State.reg · 1) = some 0x7E := by decide

-- A8
theorem test_or : (after 0x8121 (regs [(1, 0xF0), (2, 0x0F)])).map (State.reg · 1) = some 0xFF := by decide

-- A8b
theorem test_and : (after 0x8122 (regs [(1, 0xF0), (2, 0x3C)])).map (State.reg · 1) = some 0x30 := by decide

-- A9
theorem test_xor : (after 0x8123 (regs [(1, 0xF0), (2, 0x3C)])).map (State.reg · 1) = some 0xCC := by decide

-- A10, A12, A13, A14
theorem test_add_vy :
    (after 0x8124 (regs [(1, 0xC8), (2, 0x64)])).map (fun t => (t.reg 1, t.reg 0xF)) = some (0x2C, 1) ∧
    (after 0x8124 (regs [(1, 0x80), (2, 0x7F)])).map (fun t => (t.reg 1, t.reg 0xF)) = some (0xFF, 0) ∧
    (after 0x8114 (regs [(1, 0x90)])).map (fun t => (t.reg 1, t.reg 0xF)) = some (0x20, 1) ∧
    (after 0x81F4 (regs [(1, 0xFF), (0xF, 0x01)])).map (fun t => (t.reg 1, t.reg 0xF)) = some (0x00, 1) := by decide

-- A15, A16
theorem test_add_vy_into_vf :
    (after 0x8F14 (regs [(0xF, 0xF0), (1, 0x20)])).map (State.reg · 0xF) = some 0x10 ∧
    (after 0x8FF4 (regs [(0xF, 0x01)])).map (State.reg · 0xF) = some 0x02 := by decide

-- A20, A21, A22, A24
theorem test_sub :
    (after 0x8125 (regs [(1, 0x10), (2, 0x20)])).map (fun t => (t.reg 1, t.reg 0xF)) = some (0xF0, 0) ∧
    (after 0x8125 (regs [(1, 0x05), (2, 0x03)])).map (fun t => (t.reg 1, t.reg 0xF)) = some (0x02, 1) ∧
    (after 0x8125 (regs [(1, 0x05), (2, 0x05)])).map (fun t => (t.reg 1, t.reg 0xF)) = some (0x00, 0) ∧
    (after 0x8115 (regs [(1, 0x09)])).map (fun t => (t.reg 1, t.reg 0xF)) = some (0x00, 0) := by decide

-- A25, A26, A27, A28, A29
theorem test_sub_with_vf :
    (after 0x81F5 (regs [(1, 0x05), (0xF, 0x03)])).map (fun t => (t.reg 1, t.reg 0xF)) = some (0x04, 1) ∧
    (after 0x81F5 (regs [(1, 0x03), (0xF, 0x05)])).map (fun t => (t.reg 1, t.reg 0xF)) = some (0x03, 0) ∧
    (after 0x8F15 (regs [(0xF, 0x05), (1, 0x03)])).map (State.reg · 0xF) = some 0xFE ∧
    (after 0x8F15 (regs [(0xF, 0x03), (1, 0x05)])).map (State.reg · 0xF) = some 0xFB ∧
    (after 0x8FF5 (regs [(0xF, 0x09)])).map (State.reg · 0xF) = some 0x00 := by decide

-- A30, A31
theorem test_shr :
    (after 0x8126 (regs [(1, 0x05), (2, 0xAA)])).map (fun t => (t.reg 1, t.reg 0xF, t.reg 2)) = some (0x02, 1, 0xAA) ∧
    (after 0x8106 (regs [(1, 0x80)])).map (fun t => (t.reg 1, t.reg 0xF)) = some (0x40, 0) := by decide

-- A32
theorem test_shr_vf : (after 0x8F06 (regs [(0xF, 0xFF)])).map (State.reg · 0xF) = some 0x00 := by decide

-- A33, A34
theorem test_subn :
    (after 0x8127 (regs [(1, 0x10), (2, 0x20)])).map (fun t => (t.reg 1, t.reg 0xF)) = some (0x10, 1) ∧
    (after 0x8127 (regs [(1, 0x20), (2, 0x10)])).map (fun t => (t.reg 1, t.reg 0xF)) = some (0xF0, 0) := by decide

-- A35, A36, A37, A38, A39
theorem test_subn_with_vf :
    (after 0x81F7 (regs [(1, 0x03), (0xF, 0x05)])).map (fun t => (t.reg 1, t.reg 0xF)) = some (0xFE, 1) ∧
    (after 0x81F7 (regs [(1, 0x05), (0xF, 0x03)])).map (fun t => (t.reg 1, t.reg 0xF)) = some (0xFB, 0) ∧
    (after 0x8F17 (regs [(0xF, 0x03), (1, 0x05)])).map (State.reg · 0xF) = some 0x04 ∧
    (after 0x8F17 (regs [(0xF, 0x05), (1, 0x03)])).map (State.reg · 0xF) = some 0x03 ∧
    (after 0x8FF7 (regs [(0xF, 0x09)])).map (State.reg · 0xF) = some 0x00 := by decide

-- A40, A41
theorem test_shl :
    (after 0x812E (regs [(1, 0x81), (2, 0xAA)])).map (fun t => (t.reg 1, t.reg 0xF, t.reg 2)) = some (0x02, 1, 0xAA) ∧
    (after 0x810E (regs [(1, 0x40)])).map (fun t => (t.reg 1, t.reg 0xF)) = some (0x80, 0) := by decide

-- A42, A43
theorem test_shl_vf :
    (after 0x8F0E (regs [(0xF, 0x80)])).map (State.reg · 0xF) = some 0x02 ∧
    (after 0x8F0E (regs [(0xF, 0x7F)])).map (State.reg · 0xF) = some 0x00 := by decide

-- A51: whatever the random byte is
theorem test_rnd_masked : (after 0xC300 (regs [(3, 0x55)])).map (State.reg · 3) = some 0x00 := by
  have h : decode 0xC300 = .rnd 3 0 := by decide
  unfold after
  rw [h]
  simp [exec, execRnd, State.drawRand]

/-! ### The address register and memory -/

-- M1
theorem test_ld_i : (after 0xA2F0 State.reset).map State.i = some 0x02F0 := by decide

-- M2, M3, M4
theorem test_add_i :
    (after 0xF21E { regs [(2, 0x10)] with i := 0x0300 }).map State.i = some 0x0310 ∧
    (after 0xF11E { regs [(1, 1)] with i := 0x0FFF }).map (fun t => (t.i, t.reg 0xF)) = some (0x1000, 0) ∧
    (after 0xF11E { regs [(1, 0xFF)] with i := 0xFF01 }).map State.i = some 0x0000 := by decide

-- M5, M6, M7
theorem test_ld_f :
    (after 0xF429 (regs [(4, 0x0A)])).map State.i = some 0x0032 ∧
    (after 0xF129 (regs [(1, 0x10)])).map State.i = some 0x0050 ∧
    (after 0xF129 (regs [(1, 0xFF)])).map State.i = some 0x04FB := by decide

-- M8, M9, M11
theorem test_ld_b :
    (after 0xF033 { regs [(0, 234)] with i := 0x0300 }).map (bytes3 · 0x300) = some [2, 3, 4] ∧
    (after 0xF033 { regs [(0, 255)] with i := 0x0FFD }).map (bytes3 · 0xFFD) = some [2, 5, 5] ∧
    (after 0xF033 { regs [(0, 100)] with i := 0x0300 }).map (bytes3 · 0x300) = some [1, 0, 0] := by decide

-- M10
theorem test_ld_b_bound :
    (after 0xF033 { regs [(0, 234)] with i := 0x0FFE }).map (fun t => (t.flt.code, t.fltAddr, t.fltOp, t.pc)) =
      some (4, 0x0200, 0xF033, 0x0202) ∧
    (after 0xF033 { regs [(0, 234)] with i := 0x0FFE }).map State.mem = some [] := by decide

-- M12
theorem test_ld_mi :
    (after 0xF155 { regs [(0, 0x11), (1, 0x22), (2, 0x33)] with i := 0x0400 }).map (fun t => (t.mem, t.i)) =
      some ([(0x400, 0x11), (0x401, 0x22)], 0x0400) := by decide

-- M13, M14: the last address that fits sixteen bytes and the first that does not
theorem test_ld_mi_bound :
    (after 0xFF55 { regs [(0, 0x01), (0xF, 0x10)] with i := 0x0FF0 }).map (fun t => (t.mem, t.flt.code)) =
      some ([(0xFF0, 0x01), (0xFFF, 0x10)], 0) ∧
    (after 0xFF55 { regs [(0, 0x01), (0xF, 0x10)] with i := 0x0FF1 }).map (fun t => (t.mem, t.flt.code, t.fltOp)) =
      some ([], 4, 0xFF55) := by decide

-- M15
theorem test_ld_vx_mi :
    (after 0xF265 { State.reset with i := 0x0300, mem := [(0x300, 0xAA), (0x301, 0xBB), (0x302, 0xCC), (0x303, 0xDD)] }).map
      (fun t => (t.reg 0, t.reg 1, t.reg 2, t.reg 3, t.i)) = some (0xAA, 0xBB, 0xCC, 0, 0x0300) := by decide

-- M16, M17
theorem test_ld_vx_mi_bound :
    (after 0xF065 { State.reset with i := 0x1000 }).map (fun t => (t.flt.code, t.fltOp, t.reg 0)) = some (4, 0xF065, 0) ∧
    (after 0xF065 { State.reset with i := 0x0FFF, mem := [(0xFFF, 0x5A)] }).map (State.reg · 0) = some 0x5A := by decide

/-! ### Display, keyboard, timers, wait -/

-- D1
theorem test_cls :
    (after 0x00E0 { State.reset with fb := Screen.toggle Screen.blank 4 5 }).map (fun t => (t.fb, t.trace)) =
      some (Screen.blank, [.dispClear]) := by decide

-- D4, and D2's wrap at the right edge comes with D9
theorem test_drw_erases :
    (after 0xD121 { sprite 4 5 0x300 [0xA0] with fb := Screen.toggle Screen.blank 4 5 }).map
      (fun t => (t.trace, Screen.pixel t.fb 4 5, Screen.pixel t.fb 6 5, t.reg 0xF)) =
      some ([.dispSetPixel 4 5 true, .dispSetPixel 6 5 false], false, true, 1) := by decide

-- D9
theorem test_drw_wraps :
    (after 0xD121 (sprite 255 255 0x300 [0x81])).map
      (fun t => (t.trace, Screen.pixel t.fb 63 31, Screen.pixel t.fb 6 31, t.reg 0xF)) =
      some ([.dispSetPixel 255 255 false, .dispSetPixel 262 255 false], true, true, 0) := by decide

-- D5, D7: no row reads nothing; a row above memory faults before the first pixel
theorem test_drw_bound :
    (after 0xD120 { (sprite 0 0 0xFFF [0x80]).setReg 0xF 7 with keys := 0 }).map (fun t => (t.trace, t.reg 0xF)) =
      some ([], 0) ∧
    (after 0xD122 ((sprite 0 0 0xFFF [0x80]).setReg 0xF 7)).map
      (fun t => (t.flt.code, t.fltAddr, t.fltOp, t.trace, t.reg 0xF)) = some (4, 0x0200, 0xD122, [], 7) := by decide

-- D8
theorem test_drw_vf_coordinates :
    (after 0xDFF1 ((sprite 0 0 0x300 [0x80]).setReg 0xF 3)).map (fun t => (t.trace, t.reg 0xF)) =
      some ([.dispSetPixel 3 3 false], 0) := by decide

-- K1, K2, K5
theorem test_skp :
    (after 0xE39E { regs [(3, 0x0A)] with keys := 0x0400 }).map State.pc = some 0x0204 ∧
    (after 0xE39E (regs [(3, 0x0A)])).map State.pc = some 0x0202 ∧
    (after 0xE39E { regs [(3, 0x1A)] with keys := 0x0400 }).map State.pc = some 0x0202 := by decide

-- K3, K4, K6
theorem test_sknp :
    (after 0xE3A1 (regs [(3, 0x0A)])).map State.pc = some 0x0204 ∧
    (after 0xE3A1 { regs [(3, 0x0A)] with keys := 0x0400 }).map State.pc = some 0x0202 ∧
    (after 0xE3A1 { regs [(3, 0x1A)] with keys := 0x0400 }).map State.pc = some 0x0204 := by decide

-- T1, T2, T3
theorem test_timers :
    (after 0xF507 { State.reset with dt := 0x2A }).map (State.reg · 5) = some 0x2A ∧
    (after 0xF515 (regs [(5, 0x3C)])).map State.dt = some 0x3C ∧
    (after 0xF518 (regs [(5, 0x03)])).map State.st = some 0x03 := by decide

-- W1
theorem test_ld_k :
    (after 0xF30A State.reset).map (fun t => (t.kx, t.mode, t.pc, t.reg 3)) = some (3, .awaitKey, 0x0202, 0) := by decide

-- W2
theorem test_key_down_delivers :
    (afterStep { State.reset with kx := 3, mode := .awaitKey, pc := 0x0202, pending := [.keyDown 7] }).map
      (fun t => (t.reg 3, t.mode, t.pc)) = some (7, .running, 0x0202) := by decide

-- W4: a faulted core
theorem test_key_down_ignored :
    (afterStep { State.reset with flt := .stackUnderflow, pending := [.keyDown 7] }).map (fun t => (t.reg 0, t.flt.code)) =
      some (0, 2) := by decide

-- R188: a key goes down and is released again; a waiting core goes on waiting
theorem test_key_level :
    (afterStep { State.reset with mode := .awaitKey, keys := 0x8001, pending := [.keyLevel 7 true] }).map
      (fun t => (t.keys, t.mode, t.pending)) = some (0x8081, .awaitKey, []) ∧
    (afterStep { State.reset with keys := 0x8081, pending := [.keyLevel 7 false] }).map State.keys = some 0x8001 := by decide

/-! ### Unknown sub-opcodes -/

-- U1
theorem test_unk0 :
    (after 0x0000 State.reset).map (fun t => (t.pc, t.trace)) = some (0x0202, [.diagUnknown 0x0200 0x0000]) := by decide

-- U4
theorem test_unk8 :
    (after 0x812F (regs [(1, 7), (2, 7), (0xF, 5)])).map (fun t => (t.pc, t.trace, t.reg 1, t.reg 0xF)) =
      some (0x0202, [.diagUnknown 0x0200 0x812F], 7, 5) := by decide

-- U5
theorem test_unkE :
    (after 0xE19F { State.reset with keys := 0xFFFF }).map (fun t => (t.pc, t.trace)) =
      some (0x0202, [.diagUnknown 0x0200 0xE19F]) := by decide

-- U6
theorem test_unkF :
    (after 0xF175 State.reset).map (fun t => (t.pc, t.trace, t.flt.code)) =
      some (0x0202, [.diagUnknown 0x0200 0xF175], 0) := by decide

/-! ### The frame step and the host's transactions -/

-- F1, frame 1: the sound timer goes from 3 to 2 and the tone plays
theorem test_end_of_frame :
    (afterStep { State.reset with slot := 10, st := 3 }).map (fun t => (t.st, t.trace, t.slot, t.answer)) =
      some (2, [.spkPlay 440, .dispRender], 0, some .done) := by decide

-- F2: a sound timer of 1 is silent
theorem test_end_of_frame_silent :
    (afterStep { State.reset with slot := 10, st := 1 }).map (fun t => (t.st, t.trace)) =
      some (0, [.spkStop, .dispRender]) := by decide

-- F3
theorem test_faulted_frame :
    (afterStep { State.reset with flt := .stackUnderflow }).map (fun t => (t.answer, t.trace)) =
      some (some (.fault .stackUnderflow), []) := by decide

-- F4, the end of a frame that waits: no decrement
theorem test_waiting_frame :
    (afterStep { State.reset with mode := .awaitKey, dt := 5, st := 5, slot := 10 }).map (fun t => (t.dt, t.st, t.trace)) =
      some (5, 5, [.spkPlay 440, .dispRender]) := by decide

-- L2, R206: glyphs 0, A and F of the default font
theorem test_font :
    Config.customaryFont.toList.take 5 = [0xF0, 0x90, 0x90, 0x90, 0xF0] ∧
    (Config.customaryFont.toList.drop 0x32).take 5 = [0xF0, 0x90, 0xF0, 0x90, 0x90] ∧
    (Config.customaryFont.toList.drop 0x4B) = [0xF0, 0x80, 0xF0, 0x80, 0x80] := by decide

-- L4: a load moves no register
theorem test_load_prog :
    (afterStep { State.reset with pc := 0x0208, pending := [.loadProg [0x60, 0x05]] }).map
      (fun t => (t.mem, t.answer, t.pc)) = some ([(0x200, 0x60), (0x201, 0x05)], some .ok, 0x0208) := by decide

-- S7: 3584 bytes fit and 3585 are one too many
theorem test_load_prog_bound : inBounds progBase 3584 = true ∧ inBounds progBase 3585 = false := by decide

-- L1: out of the faulted state of F5, with the display kept
theorem test_reset :
    (afterStep { State.reset with
        flt := .memoryBoundViolation, fltAddr := 0x1000, pc := 0x1000, mem := [(0x300, 1)],
        fb := Screen.toggle Screen.blank 4 5, pending := [.reset] }).map
      (fun t => (t.flt.code, t.fltAddr, t.pc, t.mem.length, Screen.pixel t.fb 4 5)) = some (0, 0, 0x0200, 0, true) := by decide

/-! ### Witnesses: for each statement with hypotheses, states and operands that meet them, at the ends of their ranges -/

/-- A state in the middle of a frame: a program byte, one call made, key 3 awaited. -/
def busy : State :=
  { State.reset with mem := [(0x200, 0x22), (0x206, 0xF3)], pc := 0x0208, sp := 1, stack := State.reset.stack.set 0 0x1000,
                     mode := .awaitKey, kx := 3, slot := 4 }

theorem witness_DecodeAfterEncode :
    (Instr.drw 0xF 0 0xF).wellFormed = true ∧ (Instr.unk0 0x0EF).wellFormed = true ∧ (Instr.unkF 0 0xFF).wellFormed = true := by
  decide

/-- `runsNext` spelled out. -/
theorem runsNext_of {s : State} (h1 : s.pending = []) (h2 : s.flt = .none) (h3 : s.mode = .running)
    (h4 : s.slot < s.cfg.speed) (h5 : s.pc.toNat + 1 ≤ 0xFFF) : s.runsNext := ⟨fun _ => .inl h1, h2, h3, h4, h5⟩

-- between frames, and in the last slot at the last address a word can lie at
theorem witness_StepRunsDecodedInstruction :
    (State.reset.runsNext ∧ decodeBytes [Memory.read State.reset.mem State.reset.pc.toNat,
      Memory.read State.reset.mem (State.reset.pc.toNat + 1)] = .ok (.unk0 0, [])) ∧
    ({ State.reset with slot := 9, pc := 0x0FFE } : State).runsNext :=
  ⟨⟨runsNext_of rfl rfl rfl (by decide) (by decide), by decide⟩, runsNext_of rfl rfl rfl (by decide) (by decide)⟩

-- the step that latches a fault, and a step that opens a frame the host asks for
theorem witness_StepRunsDecodedInstruction_fault :
    (afterStep { State.reset with mem := [(0x201, 0xEE)], slot := 9, pending := [.frameTick] }).map
      (fun t => (t.flt.code, t.slot, t.answer, t.pending)) =
      some (2, 0, some (.fault .stackUnderflow), [.frameTick]) ∧
    (afterStep { State.reset with pending := [.frameTick, .reset] }).map (fun t => (t.slot, t.pending)) =
      some (1, [.reset]) := by decide

theorem witness_FetchAboveMemoryLatches :
    let s : State := { State.reset with pc := 0x0FFF }
    s.ticksNext ∧ s.flt = .none ∧ s.mode = .running ∧ s.slot < s.cfg.speed ∧ 0xFFF < s.pc.toNat + 1 :=
  ⟨fun _ => .inl rfl, by decide⟩

theorem witness_WaitingSlotDoesNothing :
    busy.ticksNext ∧ busy.flt = .none ∧ busy.mode = .awaitKey ∧ busy.slot < busy.cfg.speed :=
  ⟨fun _ => .inl rfl, by decide⟩

theorem witness_EndOfFrameStep :
    let s : State := { State.reset with slot := 10 }
    let w : State := { busy with slot := 10 }
    (s.flt = .none ∧ 1 ≤ s.cfg.speed ∧ s.slot = s.cfg.speed ∧ s.mode = .running) ∧
      (w.flt = .none ∧ 1 ≤ w.cfg.speed ∧ w.slot = w.cfg.speed ∧ w.mode = .awaitKey) := by decide

theorem witness_FaultedFrameTickDoesNothing :
    let s : State := { State.reset with flt := .stackOverflow }
    s.ticksNext ∧ s.flt ≠ .none ∧ 1 ≤ s.cfg.speed := ⟨fun _ => .inl rfl, by decide⟩

-- the script has ended, and the script asks for the frame step with another transaction after it
theorem witness_SplitFrameTickIsAtomic :
    let s : State := { State.reset with pending := [.frameTick, .reset] }
    (State.reset.slot = 0 ∧ State.reset.ticksNext ∧ 1 ≤ State.reset.cfg.speed) ∧
    (s.slot = 0 ∧ s.ticksNext ∧ 1 ≤ s.cfg.speed) :=
  ⟨⟨rfl, fun _ => .inl rfl, by decide⟩, ⟨rfl, fun _ => .inr rfl, by decide⟩⟩

/-- What a run of the smallest frame shows: the timer, the program counter, the answer and whether no frame is open. -/
def shown : Result → Option (Byte × Word × Option Answer × Nat)
  | .next t => some (t.dt, t.pc, t.answer, t.slot)
  | .fault _ => none
  | .refused _ => none

-- the smallest frame, run both ways
theorem witness_SplitFrameTickIsAtomic_outcome :
    let s : State := { State.reset with cfg := { State.reset.cfg with speed := 1 }, dt := 5, pending := [.frameTick, .reset] }
    shown (steps 2 s) = some (4, 0x0202, some .done, 0) ∧
    shown (frameTick s.opened) = some (4, 0x0202, some .done, 0) := by decide

theorem witness_WaitingFrameOnlyRefreshes : busy.flt = .none ∧ busy.mode = .awaitKey := by decide

theorem witness_StepKeepsInvariant : busy.Inv ∧ (afterStep busy).isSome = true :=
  ⟨⟨by decide, by decide, by decide, by decide, by decide, by decide, by decide⟩, by decide⟩

theorem witness_ConstructionMeetsInvariant : 1 ≤ Config.default.speed ∧ 1 ≤ ({ Config.default with speed := 1 } : Config).speed := by
  decide

theorem witness_EveryStepAnswersNext : 1 ≤ busy.cfg.speed := by decide

theorem witness_ResetTransaction :
    let s : State := { State.reset with flt := .stackOverflow, mode := .awaitKey, pending := [.reset] }
    s.slot = 0 ∧ s.pending = .reset :: [] := by decide

theorem witness_LoadFontWritesGlyphs :
    let s : State := { State.reset with pending := [.loadFont] }
    s.slot = 0 ∧ s.pending = .loadFont :: [] ∧ 5 * 15 + 4 < 80 := by decide

-- the longest program that fits, and one byte more
theorem witness_LoadProgramAllOrNothing :
    let s : State := { State.reset with pending := [.loadProg (List.replicate 3584 0xFF)] }
    (s.slot = 0 ∧ s.pending = .loadProg (List.replicate 3584 0xFF) :: []) ∧
    (List.replicate 3584 (0xFF : Byte)).length + 0x200 ≤ 4096 ∧ (List.replicate 3585 (0xFF : Byte)).length + 0x200 > 4096 := by
  exact ⟨⟨rfl, rfl⟩, by rw [List.length_replicate], by rw [List.length_replicate]; decide⟩

theorem witness_KeyDownDelivery :
    let w : State := { busy with slot := 0, pending := [.keyDown 0xF] }
    let s : State := { State.reset with pending := [.keyDown 0] }
    (w.slot = 0 ∧ w.pending = .keyDown 0xF :: [] ∧ w.flt = .none ∧ w.mode = .awaitKey) ∧
    (s.slot = 0 ∧ s.pending = .keyDown 0 :: [] ∧ ¬ (s.flt = .none ∧ s.mode = .awaitKey)) := by decide

theorem witness_RetPopsReturnAddress :
    0 < busy.sp.val ∧ 0 < ({ State.reset with sp := 16 } : State).sp.val ∧ State.reset.sp.val = 0 := by decide

theorem witness_CallPushesAdvancedPc :
    State.reset.sp.val < 16 ∧ ({ State.reset with sp := 15 } : State).sp.val < 16 ∧
    ({ State.reset with sp := 16 } : State).sp.val = 16 := by decide

theorem witness_CallThenReturnRoundTrip : ({ State.reset with sp := 15 } : State).sp.val < 16 := by decide

-- the clauses on which register is V[15]
theorem witness_flag_register_clauses :
    ((0xE : RegIdx) ≠ 0xF ∧ (0 : RegIdx) ≠ 0xF) ∧ ((0 : RegIdx) ≠ 0xF ∧ (0xF : RegIdx) = 0xF) := by decide

theorem witness_DecimalDigitsStored : ({ State.reset with i := 0x0FFD } : State).i.toNat + 2 ≤ 0xFFF := by decide

theorem witness_RegistersStored :
    ({ State.reset with i := 0x0FF0 } : State).i.toNat + (0xF : RegIdx).toNat ≤ 0xFFF ∧
    ({ State.reset with i := 0x0FFF } : State).i.toNat + (0 : RegIdx).toNat ≤ 0xFFF := by decide

theorem witness_RegistersLoaded : busy.i.toNat + (0xF : RegIdx).toNat ≤ 0xFFF ∧
    (0xE : RegIdx).toNat < (0xF : RegIdx).toNat := by decide

theorem witness_StoreThenLoadRestores :
    ({ State.reset with i := 0x0FF0 } : State).i.toNat + (0xF : RegIdx).toNat ≤ 0xFFF := by decide

-- P8, in the frame's first slot and in the last of two; Fx33 that covers one byte of the next word; the last address
theorem witness_StoredInstructionIsFetched :
    let s : State := { State.reset with pc := 0x0206, i := 0x0208, mem := [(0x206, 0xF1), (0x207, 0x55)] }
    (faultOf (.ldMiVx 1) s = .none ∧ s.pc.toNat + 3 ≤ 0xFFF ∧ s.runsNext ∧ decode s.fetchWord = .ldMiVx 1 ∧
      s.slot + 1 < s.cfg.speed) ∧
    (let l : State := { s with slot := 9 }; l.runsNext ∧ decode l.fetchWord = .ldMiVx 1 ∧ ¬ l.slot + 1 < l.cfg.speed) ∧
    (let b : State := { s with i := 0x0206, mem := [(0x206, 0xF0), (0x207, 0x33)] }
     faultOf (.ldBVx 0) b = .none ∧ b.runsNext ∧ decode b.fetchWord = .ldBVx 0) ∧
    (let e : State := { s with pc := 0x0FFC, i := 0x0FFD }; faultOf (.ldBVx 0) e = .none ∧ e.pc.toNat + 3 ≤ 0xFFF) :=
  ⟨⟨by decide, by decide, runsNext_of rfl rfl rfl (by decide) (by decide), by decide, by decide⟩,
    ⟨runsNext_of rfl rfl rfl (by decide) (by decide), by decide, by decide⟩,
    ⟨by decide, runsNext_of rfl rfl rfl (by decide) (by decide), by decide⟩, by decide, by decide⟩

-- P8: the words 12 34 stored over the next instruction; M8's digits over it; M12: a byte the store does not cover
theorem test_byte_after :
    let s : State := { regs [(0, 0x12), (1, 0x34)] with pc := 0x0206, i := 0x0208 }
    let d : State := { regs [(0, 234)] with i := 0x0300, mem := [(0x303, 0x77)] }
    byteAfter (.ldMiVx 1) s 0x208 = 0x12 ∧ byteAfter (.ldMiVx 1) s 0x209 = 0x34 ∧ byteAfter (.ldMiVx 1) s 0x20A = 0 ∧
    (List.range 4).map (fun j => byteAfter (.ldBVx 0) d (0x300 + j)) = [2, 3, 4, 0x77] := by decide

-- no row at any address, one row at the last byte, fifteen rows up to the last byte
theorem witness_DrawTogglesSprite :
    ((0 : Nibble).toNat = 0 ∨ ({ State.reset with i := 0xFFFF } : State).i.toNat + (0 : Nibble).toNat - 1 ≤ 0xFFF) ∧
    ((1 : Nibble).toNat = 0 ∨ ({ State.reset with i := 0x0FFF } : State).i.toNat + (1 : Nibble).toNat - 1 ≤ 0xFFF) ∧
    ((0xF : Nibble).toNat = 0 ∨ ({ State.reset with i := 0x0FF1 } : State).i.toNat + (0xF : Nibble).toNat - 1 ≤ 0xFFF) := by
  decide

theorem witness_DrawCommandsInOrder :
    ((1 : Nibble).toNat = 0 ∨ ({ State.reset with i := 0x0FFF } : State).i.toNat + (1 : Nibble).toNat - 1 ≤ 0xFFF) := by decide

-- S8: a blank screen and a sprite with a set bit
theorem witness_DrawTwiceRestores :
    let s := sprite 3 2 0x300 [0x80]
    (1 : RegIdx) ≠ 0xF ∧ (2 : RegIdx) ≠ 0xF ∧ s.i.toNat + (1 : Nibble).toNat - 1 ≤ 0xFFF ∧
    (∀ (px : Fin 64) (py : Fin 32), Screen.pixel s.fb px py = false) ∧
    (∃ r c : Nat, r < (1 : Nibble).toNat ∧ c < 8 ∧ spriteBit s r c = true) :=
  ⟨by decide, by decide, by decide, fun px py => pixel_blank px py, 0, 0, by decide⟩

theorem witness_SetPixelTogglesAndReports :
    (63 : Fin 64).val = 63 % 64 ∧ (0 : Fin 64).val = 64 % 64 ∧ (31 : Fin 32).val = 31 % 32 ∧ (0 : Fin 32).val = 32 % 32 ∧
    ((0 : Fin 64) ≠ 63 ∨ (0 : Fin 32) ≠ 0) := by decide

theorem witness_UnknownIsDiagnosedNop :
    (∃ nnn : Imm12, decode 0x0000 = .unk0 nnn) ∧ (∃ (x y : RegIdx) (n : Nibble), decode 0x812F = .unk8 x y n) ∧
    (∃ (x : RegIdx) (kk : Byte), decode 0xE19F = .unkE x kk) ∧ (∃ (x : RegIdx) (kk : Byte), decode 0xF175 = .unkF x kk) :=
  ⟨⟨0, by decide⟩, ⟨1, 2, 0xF, by decide⟩, ⟨1, 0x9F, by decide⟩, ⟨1, 0x75, by decide⟩⟩

-- each faulting row where it faults, and at the last value where it does not
theorem witness_FaultsExactlyWhenListed :
    let s (i : Word) : State := { State.reset with i := i }
    (faultOf .ret State.reset = .stackUnderflow ∧ faultOf .ret busy = .none) ∧
    (faultOf (.call 0) { State.reset with sp := 16 } = .stackOverflow ∧
      faultOf (.call 0) { State.reset with sp := 15 } = .none) ∧
    (faultOf (.drw 0 0 2) (s 0xFFF) = .memoryBoundViolation ∧ faultOf (.drw 0 0 1) (s 0xFFF) = .none ∧
      faultOf (.drw 0 0 0) (s 0xFFFF) = .none) ∧
    (faultOf (.ldBVx 0) (s 0xFFE) = .memoryBoundViolation ∧ faultOf (.ldBVx 0) (s 0xFFD) = .none) ∧
    (faultOf (.ldMiVx 0xF) (s 0xFF1) = .memoryBoundViolation ∧ faultOf (.ldMiVx 0xF) (s 0xFF0) = .none) ∧
    (faultOf (.ldVxMi 0) (s 0x1000) = .memoryBoundViolation ∧ faultOf (.ldVxMi 0) (s 0xFFF) = .none) := by decide

-- into the wait by F30A, out of it by a key and by a reset
theorem witness_WaitEntryAndExit :
    ((afterStep { State.reset with mem := [(0x200, 0xF3), (0x201, 0x0A)] }).map State.mode = some .awaitKey) ∧
    ((afterStep { busy with slot := 0, pending := [.keyDown 7] }).map State.mode = some .running) ∧
    ((afterStep { busy with slot := 0, pending := [.reset] }).map State.mode = some .running) := by decide

theorem witness_FaultedCoreIsFrozen :
    let s : State := { State.reset with flt := .stackOverflow, pending := [.loadProg [1], .reset] }
    s.flt ≠ .none ∧ (afterStep s).isSome = true ∧ (s.slot = 0 → s.pending.head? ≠ some .reset) := by decide

theorem witness_StepRespectsPorts : (afterStep busy).isSome = true ∧ busy.slot ≠ 0 := by decide

-- the first and the last key, down and released
theorem witness_KeyLevelSetsOneBit :
    let d : State := { busy with slot := 0, pending := [.keyLevel 0 true, .keyDown 0] }
    let u : State := { State.reset with pending := [.keyLevel 0xF false] }
    (d.slot = 0 ∧ d.pending = .keyLevel 0 true :: [.keyDown 0]) ∧ (u.slot = 0 ∧ u.pending = .keyLevel 0xF false :: []) ∧
    (0xE : Nibble) ≠ 0xF := by decide

end Sys2Proof.Tests
end

section
/-!
SUPPORT. The frame of each state operation, and from it the frame of every instruction (10_state.md R28).
-/

namespace Sys2Proof.Machine

open Sys2Proof

section FrameRules

variable {w : Writes} {s t : State}

theorem Frame.refl (w : Writes) (s : State) : Frame w s s := by
  constructor <;> intros <;> simp

theorem Frame.jump (h : Frame w s t) (a : Word) : Frame w s (t.jump a) := { h with }

theorem Frame.advance (h : Frame w s t) : Frame w s t.advance := { h with }

theorem Frame.skipIf (h : Frame w s t) (c : Bool) : Frame w s (t.skipIf c) := by
  cases c
  · exact h
  · exact h.advance

theorem Frame.setRegs (h : Frame w s t) (v : Vector Byte 16)
    (hv : ∀ r : RegIdx, r ∉ w.regs → ({ t with v := v } : State).reg r = s.reg r) : Frame w s { t with v := v } :=
  { h with regs := hv }

theorem Frame.setReg (h : Frame w s t) {x : RegIdx} (hx : x ∈ w.regs) (b : Byte) : Frame w s (t.setReg x b) :=
  h.setRegs _ fun r hr => (reg_setReg_other t b (ne_of_mem_of_not_mem hx hr).symm).trans (h.regs r hr)

theorem Frame.setFlag (h : Frame w s t) (hf : vf ∈ w.regs) (f : Bool) : Frame w s (t.setFlag f) := h.setReg hf _

theorem Frame.setIndex (h : Frame w s t) (hw : w.index = true) (a : Word) : Frame w s { t with i := a } :=
  { h with index := by simp [hw] }

theorem Frame.setDt (h : Frame w s t) (hw : w.dt = true) (b : Byte) : Frame w s { t with dt := b } :=
  { h with dt := by simp [hw] }

theorem Frame.setSt (h : Frame w s t) (hw : w.st = true) (b : Byte) : Frame w s { t with st := b } :=
  { h with st := by simp [hw] }

theorem Frame.suspend (h : Frame w s t) (hw : w.wait = true) (x : RegIdx) :
    Frame w s { t with kx := x, mode := .awaitKey } :=
  { h with wait := by simp [hw] }

theorem Frame.transfer (h : Frame w s t) (hw : w.stack = true) (a : Word) (st : Vector Word 16) (n : Fin 17) :
    Frame w s { t with pc := a, stack := st, sp := n } :=
  { h with stack := by simp [hw] }

theorem Frame.takeFault (h : Frame w s t) (hw : w.fault = true) (c : FaultCode) (a op : Word) :
    Frame w s (t.takeFault c a op) :=
  { h with fault := by simp [hw] }

theorem Frame.drawRand (h : Frame w s t) (hw : w.draws = true) : Frame w s t.drawRand.2 :=
  { h with draws := by simp [hw] }

theorem Frame.emit (h : Frame w s t) (hw : w.trace = true) (e : PortEvent) : Frame w s (t.emit e) :=
  { h with trace := by simp [hw] }

theorem Frame.sameButDisplay (h : Frame w s t) (hd : w.display = true) (ht : w.trace = true) {u : State}
    (hu : SameButDisplay t u) : Frame w s u := by
  rw [hu]
  exact { h with display := by simp [hd], trace := by simp [ht] }

theorem Frame.storeBlock (h : Frame w s t) {bs : List Byte} (ha : w.memFrom = t.i.toNat) (hl : w.memLen = bs.length) :
    Frame w s (t.storeBlock bs) :=
  { h with
    memory := fun a hout => by
      rw [storeBlock_mem, read_writeBlock_outside _ _ _ _ (by rwa [ha, hl] at hout)]
      exact h.memory a hout }

theorem mem_regsThrough (r x : RegIdx) : r ∈ regsThrough x ↔ r.toNat ≤ x.toNat := by
  simp only [regsThrough, List.mem_map, List.mem_range]
  constructor
  · rintro ⟨j, hj, rfl⟩
    have := x.isLt
    rw [BitVec.toNat_ofNat]
    omega
  · exact fun h => ⟨r.toNat, by omega, by simp⟩

theorem Frame.loadRegsUpTo (h : Frame w s t) {x : RegIdx} (hw : w.regs = regsThrough x) :
    Frame w s (t.loadRegsUpTo x) := by
  have hregs (r : RegIdx) (hr : r ∉ w.regs) : (t.loadRegsUpTo x).reg r = s.reg r := by
    rw [hw, mem_regsThrough] at hr
    rw [reg_loadRegsUpTo, if_neg hr, h.regs r (by rwa [hw, mem_regsThrough])]
  exact h.setRegs _ hregs

end FrameRules

/-! ### The instructions that may fault -/

section Faulting

variable {s : State}

theorem faultOf_ret : faultOf .ret s = .none ↔ s.sp.val ≠ 0 := by
  simp only [faultOf, ite_eq_right_iff, reduceCtorEq, imp_false, ne_eq]

theorem faultOf_call (nnn : Imm12) : faultOf (.call nnn) s = .none ↔ s.sp.val ≠ 16 := by
  simp only [faultOf, ite_eq_right_iff, reduceCtorEq, imp_false, ne_eq]

/-- Where the conditions of 60_exceptions.md R170 list no fault, the check of the instruction's meaning succeeds. -/
theorem faultOf_drw (x y : RegIdx) (n : Nibble) :
    faultOf (.drw x y n) s = .none ↔ n.toNat = 0 ∨ inBounds s.i.toNat n.toNat = true := by
  simp only [faultOf, ite_eq_right_iff, reduceCtorEq, imp_false, inBounds_iff]
  omega

theorem faultOf_ldBVx (x : RegIdx) : faultOf (.ldBVx x) s = .none ↔ inBounds s.i.toNat 3 = true := by
  simp only [faultOf, ite_eq_right_iff, reduceCtorEq, imp_false, inBounds_iff]
  omega

theorem faultOf_ldMiVx (x : RegIdx) : faultOf (.ldMiVx x) s = .none ↔ inBounds s.i.toNat (x.toNat + 1) = true := by
  simp only [faultOf, ite_eq_right_iff, reduceCtorEq, imp_false, inBounds_iff]
  omega

theorem faultOf_ldVxMi (x : RegIdx) : faultOf (.ldVxMi x) s = .none ↔ inBounds s.i.toNat (x.toNat + 1) = true :=
  faultOf_ldMiVx x

/-- A completing return. -/
theorem exec_ret (h : faultOf .ret s = .none) : ∃ (h1 : s.sp.val - 1 < 16) (h2 : s.sp.val - 1 < 17),
    exec .ret s = .next { s with pc := s.stack[s.sp.val - 1], sp := ⟨s.sp.val - 1, h2⟩ } := by
  rcases pop_cases s.advance with ⟨h0, -⟩ | ⟨-, h1, h2, hp⟩
  · exact absurd h0 (faultOf_ret.1 h)
  · refine ⟨h1, h2, ?_⟩
    simp only [exec, execRet, hp]
    rfl

/-- A completing call. -/
theorem exec_call {nnn : Imm12} (h : faultOf (.call nnn) s = .none) : ∃ h : s.sp.val < 16,
    exec (.call nnn) s = .next { s with
      pc := immWord nnn, stack := s.stack.set s.sp.val (s.pc + 2), sp := ⟨s.sp.val + 1, Nat.succ_lt_succ h⟩ } := by
  rcases push_cases s.advance s.advance.pc with ⟨h0, -⟩ | ⟨h0, hp⟩
  · exact absurd h0 ((faultOf_call nnn).1 h)
  · refine ⟨h0, ?_⟩
    simp only [exec, execCall, hp]
    rfl

theorem exec_drw {x y : RegIdx} {n : Nibble} (h : faultOf (.drw x y n) s = .none) :
    let r := drawSprite (s.reg x).toNat (s.reg y).toNat n.toNat s.advance
    exec (.drw x y n) s = .next (r.1.setFlag r.2) :=
  if_pos ((faultOf_drw x y n).1 h)

theorem exec_ldBVx {x : RegIdx} (h : faultOf (.ldBVx x) s = .none) :
    exec (.ldBVx x) s = .next (s.advance.storeBlock (bcdDigits (s.reg x))) :=
  if_pos ((faultOf_ldBVx x).1 h)

theorem exec_ldMiVx {x : RegIdx} (h : faultOf (.ldMiVx x) s = .none) :
    exec (.ldMiVx x) s = .next (s.advance.storeBlock (s.regsUpTo x)) :=
  if_pos ((faultOf_ldMiVx x).1 h)

theorem exec_ldVxMi {x : RegIdx} (h : faultOf (.ldVxMi x) s = .none) :
    exec (.ldVxMi x) s = .next (s.advance.loadRegsUpTo x) :=
  if_pos ((faultOf_ldVxMi x).1 h)

theorem faultCode_of_ite {c : Prop} [Decidable c] {f : FaultCode} (h : (if c then f else .none) ≠ .none) :
    (if c then f else .none) = f :=
  if_pos (by_contra fun hc => h (if_neg hc))

/-- A meaning that answers `raiseFault` with the code listed for it raises the fault of `faultOf`. -/
theorem raiseFault_faultOf {i : Instr} {f : FaultCode} {r : Result} (hr : r = raiseFault i f s) (hf : faultOf i s = f) :
    r = raiseFault i (faultOf i s) s := by
  rw [hr, hf]

/-- Where the table lists a fault, the instruction raises it (60_exceptions.md R170). -/
theorem exec_of_fault {i : Instr} (h : faultOf i s ≠ .none) : exec i s = raiseFault i (faultOf i s) s := by
  cases i with
  | ret =>
    refine raiseFault_faultOf ?_ (faultCode_of_ite h)
    rcases pop_cases s.advance with ⟨-, hp⟩ | ⟨h0, -⟩
    · simp only [exec, execRet, hp]
    · exact absurd (faultOf_ret.2 h0.ne') h
  | call nnn =>
    refine raiseFault_faultOf ?_ (faultCode_of_ite h)
    rcases push_cases s.advance s.advance.pc with ⟨-, hp⟩ | ⟨h0, -⟩
    · simp only [exec, execCall, hp]
    · exact absurd ((faultOf_call nnn).2 h0.ne) h
  | drw x y n => exact raiseFault_faultOf (if_neg (mt (faultOf_drw x y n).2 h)) (faultCode_of_ite h)
  | ldBVx x => exact raiseFault_faultOf (if_neg (mt (faultOf_ldBVx x).2 h)) (faultCode_of_ite h)
  | ldMiVx x => exact raiseFault_faultOf (if_neg (mt (faultOf_ldMiVx x).2 h)) (faultCode_of_ite h)
  | ldVxMi x => exact raiseFault_faultOf (if_neg (mt (faultOf_ldVxMi x).2 h)) (faultCode_of_ite h)
  | _ => exact absurd rfl h

end Faulting

/-! ### Every instruction -/

/-- Taking a fault writes `PC` and the fault record only (40_execution_cycle.md R86). -/
theorem raiseFault_frame (i : Instr) (c : FaultCode) (s : State) :
    ∃ t, raiseFault i c s = .next t ∧ Frame { fault := true } s t :=
  ⟨_, rfl, (Frame.refl _ s).advance.takeFault rfl _ _ _⟩

/-- A completing instruction answers a next state and writes what its row lists (10_state.md R28). -/
theorem exec_frame {i : Instr} {s : State} (h : faultOf i s = .none) :
    ∃ t, exec i s = .next t ∧ Frame (writesOf i s) s t := by
  have f : Frame (writesOf i s) s s.advance := (Frame.refl _ s).advance
  cases i with
  | cls => exact ⟨_, rfl, f.sameButDisplay rfl rfl rfl⟩
  | ret =>
    obtain ⟨_, _, he⟩ := exec_ret h
    exact ⟨_, he, (Frame.refl _ s).transfer rfl _ _ _⟩
  | call nnn =>
    obtain ⟨_, he⟩ := exec_call h
    exact ⟨_, he, (Frame.refl _ s).transfer rfl _ _ _⟩
  | jp | jpV0 => exact ⟨_, rfl, f.jump _⟩
  | seVxKk | sneVxKk | seVxVy | sneVxVy | skp | sknp => exact ⟨_, rfl, f.skipIf _⟩
  | ldVxKk | addVxKk | ldVxVy | orVxVy | andVxVy | xorVxVy | ldVxDt =>
    exact ⟨_, rfl, f.setReg (by simp [writesOf]) _⟩
  | addVxVy | subVxVy | shrVx | subnVxVy | shlVx =>
    exact ⟨_, rfl, (f.setFlag (by simp [writesOf]) _).setReg (by simp [writesOf]) _⟩
  | rnd => exact ⟨_, rfl, (f.drawRand rfl).setReg (by simp [writesOf]) _⟩
  | drw =>
    exact ⟨_, exec_drw h, (f.sameButDisplay rfl rfl (drawSprite_same ..)).setFlag (by simp [writesOf]) _⟩
  | ldINnn | addIVx | ldFVx => exact ⟨_, rfl, f.setIndex rfl _⟩
  | ldVxK => exact ⟨_, rfl, f.suspend rfl _⟩
  | ldDtVx => exact ⟨_, rfl, f.setDt rfl _⟩
  | ldStVx => exact ⟨_, rfl, f.setSt rfl _⟩
  | ldBVx => exact ⟨_, exec_ldBVx h, f.storeBlock rfl rfl⟩
  | ldMiVx => exact ⟨_, exec_ldMiVx h, f.storeBlock rfl (regsUpTo_length ..).symm⟩
  | ldVxMi => exact ⟨_, exec_ldVxMi h, f.loadRegsUpTo rfl⟩
  | unk0 | unk8 | unkE | unkF => exact ⟨_, rfl, f.emit rfl _⟩

/-- Settles O55, from the frame rule of each state operation. -/
theorem writesOnlyItsTableRow : Obligations.WritesOnlyItsTableRow := by
  intro i s
  split
  case isTrue h => exact exec_frame h
  case isFalse h =>
    rw [exec_of_fault h]
    exact raiseFault_frame ..

end Sys2Proof.Machine
end

section
/-!
SUPPORT. The next step, case by case: the sub-steps of a frame step (40_execution_cycle.md R80 to R82, R89 to R91) and the
host's transactions (10_state.md R30).
-/

namespace Sys2Proof.Machine

open Sys2Proof

/-- `exec` stops in no state (60_exceptions.md R174). -/
theorem exec_next (i : Instr) (s : State) : ∃ t, exec i s = .next t :=
  (writesOnlyItsTableRow i s).imp fun _ => And.left

/-- What an instruction leaves alone whether it completes or faults, as a frame. -/
theorem frame_of_exec {i : Instr} {s t : State} (he : exec i s = .next t) :
    Frame (if faultOf i s = .none then writesOf i s else { fault := true }) s t := by
  obtain ⟨u, hu, hf⟩ := writesOnlyItsTableRow i s
  cases hu.symm.trans he
  exact hf

theorem frame_of_completes {i : Instr} {s t : State} (h : faultOf i s = .none) (he : exec i s = .next t) :
    Frame (writesOf i s) s t := by
  have hf := frame_of_exec he
  rwa [if_pos h] at hf

theorem frame_of_fault {i : Instr} {s t : State} (h : faultOf i s ≠ .none) (he : exec i s = .next t) :
    Frame { fault := true } s t := by
  have hf := frame_of_exec he
  rwa [if_neg h] at hf

/-- The sub-steps of a frame step, by the state each one leads to. -/
inductive TickMove (s : State) : State → Prop
  | faulted (hf : s.flt ≠ .none) : TickMove s s.faultFrame
  | waits (hf : s.flt = .none) (hs : s.slot < s.cfg.speed) (hm : s.mode = .awaitKey) :
      TickMove s { s with slot := s.slot + 1 }
  | runs {u : State} (hf : s.flt = .none) (hs : s.slot < s.cfg.speed) (hm : s.mode = .running)
      (hp : s.pc.toNat + 1 ≤ 0xFFF) (he : exec (decode s.fetchWord) s = .next u) : TickMove s u.finishSlot
  | fetchFaults (hf : s.flt = .none) (hs : s.slot < s.cfg.speed) (hm : s.mode = .running)
      (hp : 0xFFF < s.pc.toNat + 1) : TickMove s s.fetchFault.faultFrame
  | ends (hf : s.flt = .none) (hs : s.cfg.speed ≤ s.slot) : TickMove s s.endFrame

/-- The host's transactions that are no frame step, by the state each one leads to. -/
inductive HostMove (s : State) : HostEvent → State → Prop
  | reset : HostMove s .reset (hostReset s)
  | loadFont : HostMove s .loadFont (hostLoadFont s)
  | loadProg (bytes : List Byte) : HostMove s (.loadProg bytes) (hostLoadProg bytes s)
  | keyDown (k : Nibble) : HostMove s (.keyDown k) (hostKeyDown k s)
  | keyLevel (k : Nibble) (down : Bool) : HostMove s (.keyLevel k down) (keyboardLevel k down s)

theorem step_tick {s t : State} (hp : plan s = planTick s.opened) (h : step s = .next t) : TickMove s.opened t := by
  have h1 : 1 ≤ s.opened.cfg.speed := by
    by_contra h0
    rw [planTick_speedZero (by omega)] at hp
    simp [step, hp] at h
  rcases planTick_cases h1 with ⟨hf, hq⟩ | ⟨hf, hs, hm, hq⟩ | ⟨hf, hs, hm, hpc, hq⟩ | ⟨hf, hs, hm, hpc, hq⟩ | ⟨hf, hs, hq⟩
  case inr.inr.inl =>
    obtain ⟨u, he⟩ := exec_next (decode s.opened.fetchWord) s.opened
    cases (step_of_run (hp.trans hq) he).symm.trans h
    exact .runs hf hs hm hpc he
  all_goals cases (step_of_move (hp.trans hq)).symm.trans h
  · exact .faulted hf
  · exact .waits hf hs hm
  · exact .fetchFaults hf hs hm hpc
  · exact .ends hf hs

/-- Everything a step that answers a next state can be. -/
theorem step_cases {s t : State} (h : step s = .next t) :
    (s.ticksNext ∧ TickMove s.opened t) ∨
    (s.slot = 0 ∧ ∃ e rest, s.pending = e :: rest ∧ HostMove { s with pending := rest } e t) := by
  rcases plan_cases s with ⟨ht, hp⟩ | ⟨h0, e, rest, hpend, -, hm⟩
  · exact .inl ⟨ht, step_tick hp h⟩
  · refine .inr ⟨h0, e, rest, hpend, ?_⟩
    rcases hm with ⟨rfl, hp⟩ | ⟨rfl, hp⟩ | ⟨bytes, rfl, hp⟩ | ⟨k, rfl, hp⟩ | ⟨k, d, rfl, hp⟩ <;>
      cases (step_of_move hp).symm.trans h
    · exact .reset
    · exact .loadFont
    · exact .loadProg bytes
    · exact .keyDown k
    · exact .keyLevel k d

end Sys2Proof.Machine
end

section
/-!
SUPPORT. The invariant of reachable states (10_state.md R27).
-/

namespace Sys2Proof.Machine

open Sys2Proof

/-- The part of the invariant that speaks of the core alone, which an instruction keeps before its slot is counted. -/
structure State.CoreInv (s : State) : Prop where
  memory : Memory.wf s.mem
  pcBound : s.pc.toNat ≤ 0x10FE
  stackBound : ∀ j : Fin 16, j.val < s.sp.val → s.stack[j.val].toNat ≤ 0x1000
  noDecodeError : s.flt ≠ .decodeError

theorem State.Inv.coreInv {s : State} (h : s.Inv) : s.CoreInv := { h with }

theorem SameButDisplay.mem {s t : State} (h : SameButDisplay s t) : t.mem = s.mem := by rw [h]

theorem SameButDisplay.pc {s t : State} (h : SameButDisplay s t) : t.pc = s.pc := by rw [h]

/-- Memory after a completing instruction that is no call and no return: as it was, or with one block stored that ends
inside memory. -/
theorem exec_mem {i : Instr} {s t : State} (hw : (writesOf i s).stack = false) (h : faultOf i s = .none)
    (he : exec i s = .next t) :
    t.mem = s.mem ∨ ∃ bs, s.i.toNat + bs.length ≤ memSize ∧ t.mem = Memory.writeBlock s.mem s.i.toNat bs := by
  cases i with
  | ret | call => cases hw
  | ldBVx x =>
    cases (exec_ldBVx h).symm.trans he
    exact .inr ⟨bcdDigits (s.reg x), (inBounds_iff _ _).1 ((faultOf_ldBVx x).1 h), rfl⟩
  | ldMiVx x =>
    cases (exec_ldMiVx h).symm.trans he
    refine .inr ⟨s.regsUpTo x, ?_, rfl⟩
    rw [regsUpTo_length]
    exact (inBounds_iff _ _).1 ((faultOf_ldMiVx x).1 h)
  | ldVxMi x =>
    cases (exec_ldVxMi h).symm.trans he
    exact .inl rfl
  | drw x y n =>
    cases (exec_drw h).symm.trans he
    exact .inl (drawSprite_same _ _ _ s.advance).mem
  | seVxKk | sneVxKk | seVxVy | sneVxVy | skp | sknp =>
    cases he
    exact .inl (skipIf_mem ..)
  | _ =>
    cases he
    exact .inl rfl

theorem pc_add_two {w : Word} (h : w.toNat + 1 ≤ 0xFFF) : (w + 2).toNat = w.toNat + 2 := by
  bv_omega

theorem immWord_le (nnn : Imm12) : (immWord nnn).toNat ≤ 0xFFF := by
  have := nnn.isLt
  rw [immWord, BitVec.toNat_setWidth]
  omega

theorem byteWord_le (b : Byte) : (byteWord b).toNat ≤ 0xFF := by
  have := b.isLt
  rw [byteWord, BitVec.toNat_setWidth]
  omega

theorem skipIf_pc_le {s : State} (hp : s.pc.toNat + 1 ≤ 0xFFF) (c : Bool) :
    (s.advance.skipIf c).pc.toNat ≤ 0x10FE := by
  rw [skipIf_pc, advance_pc]
  split <;> bv_omega

/-- A completing instruction that was fetched inside memory and is no call and no return leaves `PC` within the bound
(10_state.md R27): the furthest it goes is `Bnnn`'s `0xFFF + 0xFF`. -/
theorem exec_pc_le {i : Instr} {s t : State} (hp : s.pc.toNat + 1 ≤ 0xFFF) (hw : (writesOf i s).stack = false)
    (h : faultOf i s = .none) (he : exec i s = .next t) : t.pc.toNat ≤ 0x10FE := by
  have hadv : s.advance.pc.toNat ≤ 0x10FE := by rw [advance_pc, pc_add_two hp]; omega
  cases i with
  | ret | call => cases hw
  | jp nnn =>
    cases he
    exact (immWord_le nnn).trans (by decide)
  | jpV0 nnn =>
    cases he
    have h1 := immWord_le nnn
    have h2 := byteWord_le (s.reg 0)
    rw [jump_pc]
    bv_omega
  | drw x y n =>
    cases (exec_drw h).symm.trans he
    exact (congrArg BitVec.toNat (drawSprite_same _ _ _ s.advance).pc).trans_le hadv
  | ldBVx x =>
    cases (exec_ldBVx h).symm.trans he
    exact hadv
  | ldMiVx x =>
    cases (exec_ldMiVx h).symm.trans he
    exact hadv
  | ldVxMi x =>
    cases (exec_ldVxMi h).symm.trans he
    exact hadv
  | seVxKk | sneVxKk | seVxVy | sneVxVy | skp | sknp =>
    cases he
    exact skipIf_pc_le hp _
  | _ =>
    cases he
    exact hadv

/-- A return keeps the core's part of the invariant: the address it goes to is an occupied slot's. -/
theorem ret_coreInv {s t : State} (hs : s.CoreInv) (h : faultOf .ret s = .none) (he : exec .ret s = .next t) :
    t.CoreInv := by
  obtain ⟨h1, h2, hx⟩ := exec_ret h
  cases hx.symm.trans he
  exact { hs with
    pcBound := (hs.stackBound ⟨_, h1⟩ (Nat.sub_one_lt (faultOf_ret.1 h))).trans (by decide)
    stackBound := fun j hj => hs.stackBound j (Nat.lt_of_lt_of_le hj (Nat.sub_le _ _)) }

/-- A call fetched inside memory keeps the core's part of the invariant: the address it pushes is the advanced `PC`. -/
theorem call_coreInv {nnn : Imm12} {s t : State} (hp : s.pc.toNat + 1 ≤ 0xFFF) (hs : s.CoreInv)
    (h : faultOf (.call nnn) s = .none) (he : exec (.call nnn) s = .next t) : t.CoreInv := by
  obtain ⟨h1, hx⟩ := exec_call h
  cases hx.symm.trans he
  refine { hs with pcBound := (immWord_le nnn).trans (by decide), stackBound := fun j hj => ?_ }
  rw [Vector.getElem_set]
  split
  case isTrue =>
    rw [pc_add_two hp]
    omega
  case isFalse hne =>
    have hj : j.val < s.sp.val + 1 := hj
    exact hs.stackBound j (by omega)

theorem writesOf_fault (i : Instr) (s : State) : (writesOf i s).fault = false := by
  cases i <;> rfl

theorem faultOf_ne_decodeError (i : Instr) (s : State) : faultOf i s ≠ .decodeError := by
  unfold faultOf
  repeat' split
  all_goals exact FaultCode.noConfusion

theorem fault_coreInv {i : Instr} {s t : State} (hp : s.pc.toNat + 1 ≤ 0xFFF) (hs : s.CoreInv)
    (h : faultOf i s ≠ .none) (he : exec i s = .next t) : t.CoreInv := by
  cases (exec_of_fault h).symm.trans he
  exact { hs with
    pcBound := by
      rw [takeFault_pc, advance_pc, pc_add_two hp]
      omega
    noDecodeError := faultOf_ne_decodeError i s }

/-- An instruction fetched inside memory keeps the core's part of the invariant, whether it completes or faults. -/
theorem exec_coreInv {i : Instr} {s t : State} (hp : s.pc.toNat + 1 ≤ 0xFFF) (hs : s.CoreInv)
    (he : exec i s = .next t) : t.CoreInv := by
  by_cases h : faultOf i s = .none
  case neg => exact fault_coreInv hp hs h he
  by_cases hw : (writesOf i s).stack = false
  case pos =>
    have hfr := frame_of_completes h he
    obtain ⟨hsp, hst⟩ := hfr.stack hw
    refine ⟨?_, exec_pc_le hp hw h he, by rw [hsp, hst]; exact hs.stackBound, ?_⟩
    · rcases exec_mem hw h he with hm | ⟨bs, hb, hm⟩ <;> rw [hm]
      · exact hs.memory
      · exact writeBlock_wf _ bs hs.memory hb
    · rw [(hfr.fault (writesOf_fault i s)).1]
      exact hs.noDecodeError
  case neg =>
    cases i
    case ret => exact ret_coreInv hs h he
    case call => exact call_coreInv hp hs h he
    all_goals exact absurd rfl hw

/-- Counting the slot, or closing the frame on a fault, gives the whole invariant back. -/
theorem finishSlot_inv {s : State} (h : s.CoreInv) (hs : s.slot < s.cfg.speed) : s.finishSlot.Inv := by
  rcases finishSlot_cases s with ⟨hf, hx⟩ | ⟨-, hx⟩ <;> rw [hx]
  · exact { h with
      speedPositive := Nat.one_le_of_lt hs
      slotBound := hs
      faultClosesFrame := fun hn => absurd hf hn }
  · exact { h with
      speedPositive := Nat.one_le_of_lt hs
      slotBound := Nat.zero_le _
      faultClosesFrame := fun _ => rfl }

theorem construct_inv (cfg : Config) (fb0 : Screen) (h : 1 ≤ cfg.speed) : (State.construct cfg fb0).Inv where
  memory := reset_memory_wf
  pcBound := show (0x200#16).toNat ≤ 0x10FE by decide
  stackBound := fun _ hj => absurd hj (Nat.not_lt_zero _)
  speedPositive := h
  slotBound := Nat.zero_le _
  faultClosesFrame := fun _ => rfl
  noDecodeError := FaultCode.noConfusion

theorem State.Inv.setPending {s : State} (h : s.Inv) (l : List HostEvent) : ({ s with pending := l } : State).Inv :=
  { h with }

theorem State.Inv.opened {s : State} (h : s.Inv) : s.opened.Inv := opened_eq s ▸ h.setPending _

/-- A sub-step of a frame step keeps the invariant. -/
theorem TickMove.inv {s t : State} (h : s.Inv) (hm : TickMove s t) : t.Inv := by
  cases hm with
  | faulted => exact { h with slotBound := Nat.zero_le _, faultClosesFrame := fun _ => rfl }
  | waits hf hs => exact { h with slotBound := hs, faultClosesFrame := fun hn => absurd hf hn }
  | runs hf hs hm hp he =>
    have hfr := frame_of_exec he
    exact finishSlot_inv (exec_coreInv hp h.coreInv he) (by rwa [hfr.slot, hfr.cfg])
  | fetchFaults =>
    exact { h with
      slotBound := Nat.zero_le _
      faultClosesFrame := fun _ => rfl
      noDecodeError := FaultCode.noConfusion }
  | ends =>
    rw [endFrame_eq]
    exact { h with slotBound := Nat.zero_le _, faultClosesFrame := fun _ => rfl }

theorem hostLoadProg_inv {s : State} (bytes : List Byte) (h : s.Inv) : (hostLoadProg bytes s).Inv := by
  unfold hostLoadProg
  split
  case isTrue hb => exact { h with memory := writeBlock_wf _ bytes h.memory ((inBounds_iff _ _).1 hb) }
  case isFalse => exact { h with }

theorem hostKeyDown_inv {s : State} (k : Nibble) (h : s.Inv) : (hostKeyDown k s).Inv := by
  unfold hostKeyDown
  split <;> exact { h with }

/-- A host transaction keeps the invariant. -/
theorem HostMove.inv {s t : State} {e : HostEvent} (h : s.Inv) (hm : HostMove s e t) : t.Inv := by
  cases hm with
  | reset =>
    exact { construct_inv s.cfg s.fb h.speedPositive with
      slotBound := h.slotBound
      faultClosesFrame := fun hn => absurd rfl hn }
  | loadFont => exact { h with memory := writeBlock_wf _ _ h.memory (by rw [Vector.length_toList]; decide) }
  | loadProg bytes => exact hostLoadProg_inv bytes h
  | keyDown k => exact hostKeyDown_inv k h
  | keyLevel => exact { h with }

/-- Settles O13, by the cases of a step; an instruction keeps the core's part of the invariant, and the end of its slot
closes the frame where it latched a fault. -/
theorem stepKeepsInvariant : Obligations.StepKeepsInvariant := by
  intro s t h hstep
  rcases step_cases hstep with ⟨-, hm⟩ | ⟨-, _, _, -, hm⟩
  · exact hm.inv h.opened
  · exact hm.inv (h.setPending _)

/-- Settles O14, field by field of the invariant. -/
theorem constructionMeetsInvariant : Obligations.ConstructionMeetsInvariant :=
  ⟨construct_inv, construct_inv Config.default Screen.blank (by decide)⟩

end Sys2Proof.Machine
end

section
/-!
SUPPORT. The values right after reset (10_state.md R26), the wait for a key (R20), the frozen core (60_exceptions.md R176) and
the ports (10_state.md R32, R33).
-/

namespace Sys2Proof.Machine

open Sys2Proof

theorem construct_reg (cfg : Config) (fb0 : Screen) (r : RegIdx) : (State.construct cfg fb0).reg r = 0 :=
  Vector.getElem_replicate _

/-- Settles O16: each value is the one the constructed machine is given. -/
theorem resetValues : Obligations.ResetValues :=
  ⟨read_nil, construct_reg _ _, rfl, rfl, rfl, rfl, rfl, rfl, rfl, rfl, rfl, rfl, rfl⟩

/-! ### The wait for a key -/

/-- An instruction leaves the mode alone, or is `Fx0A` and names the awaiting register (44_io_timers.md R145). -/
theorem exec_mode {i : Instr} {s t : State} (he : exec i s = .next t) :
    t.mode = s.mode ∨ ∃ x, i = .ldVxK x ∧ t.kx = x := by
  by_cases h : faultOf i s = .none
  case neg => exact .inl ((frame_of_fault h he).wait rfl).1
  case pos =>
    have hfr := frame_of_completes h he
    cases i with
    | ldVxK x =>
      cases he
      exact .inr ⟨x, rfl, rfl⟩
    | _ => exact .inl (hfr.wait rfl).1

/-- A sub-step of a frame step changes the mode by running an `Fx0A` only. -/
theorem TickMove.mode {s t : State} (hm : TickMove s t) : t.mode = s.mode ∨
    (s.flt = .none ∧ s.slot < s.cfg.speed ∧ s.mode = .running ∧ s.pc.toNat + 1 ≤ 0xFFF ∧
      ∃ x, decode s.fetchWord = .ldVxK x ∧ t.kx = x) := by
  cases hm with
  | runs hf hs hr hp he =>
    rw [finishSlot_mode, finishSlot_kx]
    exact (exec_mode he).imp_right fun hx => ⟨hf, hs, hr, hp, hx⟩
  | ends => exact .inl (endFrame_mode s)
  | faulted | waits | fetchFaults => exact .inl rfl

/-- A key reaches only a core that waits without a fault (40_execution_cycle.md R88). -/
theorem hostKeyDown_of_not_waiting {s : State} (k : Nibble) (h : ¬ (s.flt = .none ∧ s.mode = .awaitKey)) :
    hostKeyDown k s = { s with answer := none } := if_neg h

/-- A host transaction changes the mode by a reset, or by a key that reaches the core, only; and then to `Running`. -/
theorem HostMove.mode {s t : State} {e : HostEvent} (hm : HostMove s e t) : t.mode = s.mode ∨
    (t.mode = .running ∧ ((s.flt = .none ∧ ∃ k, e = .keyDown k) ∨ e = .reset)) := by
  cases hm with
  | reset => exact .inr ⟨rfl, .inr rfl⟩
  | keyDown k =>
    by_cases hw : s.flt = .none ∧ s.mode = .awaitKey
    · exact .inr ⟨congrArg State.mode (if_pos hw), .inl ⟨hw.1, k, rfl⟩⟩
    · rw [hostKeyDown_of_not_waiting k hw]
      exact .inl rfl
  | loadProg => exact .inl (hostLoadProg_mode ..)
  | loadFont | keyLevel => exact .inl rfl

/-- Settles O57, by the cases of a step and what each does to the mode. -/
theorem waitEntryAndExit : Obligations.WaitEntryAndExit := by
  intro s t h
  rcases step_cases h with ⟨ht, hm⟩ | ⟨h0, e, rest, hp, hm⟩
  · rcases hm.mode with hmode | ⟨hf, hs, hr, hpc, x, hx, hk⟩
    · rw [opened_mode] at hmode
      exact ⟨fun hr ha => by simp [hmode, hr] at ha, fun ha hr => by simp [hmode, ha] at hr⟩
    · simp only [opened_flt, opened_slot, opened_cfg, opened_mode, opened_pc, opened_fetchWord] at hf hs hr hpc hx
      exact ⟨fun _ _ => ⟨x, ⟨ht, hf, hr, hs, hpc⟩, hx, hk⟩, fun ha => by simp [hr] at ha⟩
  · rcases hm.mode with hmode | ⟨hr, hcause⟩
    · exact ⟨fun hr ha => by simp [hmode, hr] at ha, fun ha hr => by simp [hmode, ha] at hr⟩
    · refine ⟨fun _ ha => by simp [hr] at ha, fun _ _ => ⟨h0, ?_⟩⟩
      simpa [hp] using hcause

/-! ### The frozen core -/

/-- The state `t` differs from `s` in memory, the key levels and the ports' bookkeeping only. -/
def SameButPorts (s t : State) : Prop :=
  t = { s with mem := t.mem, keys := t.keys, slot := t.slot, pending := t.pending, answer := t.answer }

theorem opened_sameButPorts (s : State) : SameButPorts s s.opened := by
  unfold State.opened
  split <;> rfl

theorem TickMove.sameButPorts {s t : State} (hf : s.flt ≠ .none) (hm : TickMove s t) : SameButPorts s t := by
  cases hm with
  | faulted => rfl
  | waits h | runs h | fetchFaults h | ends h => exact absurd h hf

theorem HostMove.sameButPorts {s t : State} {e : HostEvent} (hf : s.flt ≠ .none) (he : e ≠ .reset)
    (hm : HostMove s e t) : SameButPorts s t := by
  cases hm with
  | reset => exact absurd rfl he
  | loadFont | keyLevel => rfl
  | loadProg bytes =>
    unfold hostLoadProg
    split <;> rfl
  | keyDown k =>
    rw [hostKeyDown_of_not_waiting k fun h => hf h.1]
    rfl

theorem SameButPorts.trans {s t u : State} (h : SameButPorts s t) (k : SameButPorts t u) : SameButPorts s u := by
  unfold SameButPorts at *
  rw [k, h]

/-- On a faulted core a step that is no reset touches memory and the ports' bookkeeping only (60_exceptions.md R176). -/
theorem step_sameButPorts {s t : State} (hf : s.flt ≠ .none) (h : step s = .next t)
    (hr : s.slot = 0 → s.pending.head? ≠ some .reset) : SameButPorts s t := by
  rcases step_cases h with ⟨-, hm⟩ | ⟨h0, e, rest, hp, hm⟩
  · exact (opened_sameButPorts s).trans (hm.sameButPorts (by rwa [opened_flt]))
  · have he : e ≠ .reset := fun he => hr h0 (by rw [hp, he, List.head?_cons])
    exact SameButPorts.trans (t := { s with pending := rest }) rfl (hm.sameButPorts hf he)

/-- Settles O58. -/
theorem faultedCoreIsFrozen : Obligations.FaultedCoreIsFrozen := by
  intro s t hf h hr
  rw [step_sameButPorts hf h hr]
  exact ⟨rfl, rfl, rfl, rfl, rfl, rfl, rfl, rfl, rfl, rfl, rfl, rfl, rfl⟩

/-! ### The ports -/

/-- The output trace of `t` continues that of `s` (10_state.md R33). -/
def Extends (s t : State) : Prop := s.trace <+: t.trace

theorem Extends.of_eq {s t : State} (h : t.trace = s.trace) : Extends s t := by
  rw [Extends, h]

theorem Extends.trans {s t u : State} (h : Extends s t) (k : Extends t u) : Extends s u := List.IsPrefix.trans h k

theorem emit_extends (s : State) (e : PortEvent) : Extends s (s.emit e) := ⟨[e], (trace_emit s e).symm⟩

theorem drawColumn_extends (x y : Nat) (b : Byte) (acc : State × Bool) (c : Nat) :
    Extends acc.1 (drawColumn x y b acc c).1 := by
  unfold drawColumn
  split
  · exact emit_extends _ _
  · exact .of_eq rfl

theorem foldl_extends {α : Type} (f : State × Bool → α → State × Bool) (hf : ∀ acc a, Extends acc.1 (f acc a).1)
    (l : List α) (acc : State × Bool) : Extends acc.1 (l.foldl f acc).1 := by
  induction l generalizing acc with
  | nil => exact .of_eq rfl
  | cons a l ih => exact (hf acc a).trans (ih (f acc a))

theorem drawSprite_extends (x y n : Nat) (s : State) : Extends s (drawSprite x y n s).1 :=
  foldl_extends _ (fun acc row => foldl_extends _ (drawColumn_extends x (y + row) _) _ acc) _ (s, false)

/-- No instruction takes a command back. -/
theorem exec_extends {i : Instr} {s t : State} (he : exec i s = .next t) : Extends s t := by
  by_cases h : faultOf i s = .none
  case neg =>
    cases (exec_of_fault h).symm.trans he
    exact .of_eq rfl
  case pos =>
    have hfr := frame_of_completes h he
    cases i with
    | cls =>
      cases he
      exact emit_extends _ _
    | drw =>
      cases (exec_drw h).symm.trans he
      exact drawSprite_extends _ _ _ s.advance
    | unk0 | unk8 | unkE | unkF =>
      cases he
      exact emit_extends _ _
    | _ => exact .of_eq (hfr.trace rfl)

/-- A sub-step of a frame step keeps the configuration, the keys and the host's script, and takes no command back. -/
theorem TickMove.ports {s t : State} (hm : TickMove s t) :
    t.cfg = s.cfg ∧ Extends s t ∧ t.keys = s.keys ∧ t.pending = s.pending := by
  cases hm with
  | runs _ _ _ _ he =>
    have hfr := frame_of_exec he
    have htr := (exec_extends he).trans (.of_eq (trace_congr (finishSlot_traceRev _)))
    exact ⟨by rw [finishSlot_cfg, hfr.cfg], htr, by rw [finishSlot_keys, hfr.keys],
      by rw [finishSlot_pending, hfr.pending]⟩
  | ends =>
    have htr : Extends s s.endFrame := by
      rw [endFrame_eq]
      exact ((emit_extends s _).trans (emit_extends _ _)).trans (.of_eq rfl)
    exact ⟨endFrame_cfg s, htr, endFrame_keys s, endFrame_pending s⟩
  | faulted | waits | fetchFaults => exact ⟨rfl, .of_eq rfl, rfl, rfl⟩

/-- A host transaction keeps the configuration and issues no command. -/
theorem HostMove.ports {s t : State} {e : HostEvent} (hm : HostMove s e t) : t.cfg = s.cfg ∧ Extends s t := by
  cases hm with
  | loadProg => exact ⟨hostLoadProg_cfg .., .of_eq (trace_congr (hostLoadProg_traceRev ..))⟩
  | keyDown => exact ⟨hostKeyDown_cfg .., .of_eq (trace_congr (hostKeyDown_traceRev ..))⟩
  | reset | loadFont | keyLevel => exact ⟨rfl, .of_eq rfl⟩

/-- Settles O59, by the cases of a step; inside a frame step it takes nothing from the host's script. -/
theorem stepRespectsPorts : Obligations.StepRespectsPorts := by
  intro s t h
  rcases step_cases h with ⟨-, hm⟩ | ⟨h0, e, rest, -, hm⟩
  · obtain ⟨hc, htr, hk, hp⟩ := hm.ports
    refine ⟨hc.trans (opened_cfg s), ?_, fun hs => ?_⟩
    · rw [opened_eq] at htr
      exact htr
    · rw [opened_of_slot hs] at hk hp
      exact ⟨hk, hp⟩
  · exact ⟨hm.ports.1, hm.ports.2, fun hs => absurd h0 hs⟩

end Sys2Proof.Machine
end

section
/-!
SUPPORT. The fetch (20_memory.md R41, R44): the order of its two bytes, the word a load puts under it, and its fault.
-/

namespace Sys2Proof.Machine

open Sys2Proof

/-- The first byte is the high half of the number (20_memory.md R41). -/
theorem packWord_toNat (hi lo : Byte) : (packWord hi lo).toNat = hi.toNat * 256 + lo.toNat := by
  calc (packWord hi lo).toNat
      = hi.toNat <<< 8 ||| lo.toNat := BitVec.toNat_append hi lo
    _ = hi.toNat <<< 8 + lo.toNat := (Nat.shiftLeft_add_eq_or_of_lt lo.isLt _).symm
    _ = hi.toNat * 256 + lo.toNat := by rw [Nat.shiftLeft_eq]

@[simp] theorem highByte_packWord (hi lo : Byte) : highByte (packWord hi lo) = hi :=
  (slice_high hi lo 0 8).trans (slice_all hi)

@[simp] theorem lowByte_packWord (hi lo : Byte) : lowByte (packWord hi lo) = lo :=
  (slice_low hi lo 0 8 (Nat.le_refl 8)).trans (slice_all lo)

/-- Settles O4: the fetched word is the two bytes packed, and packing is undone by the two slices. -/
theorem fetchIsBigEndian : Obligations.FetchIsBigEndian :=
  fun _ => ⟨packWord_toNat .., highByte_packWord .., lowByte_packWord ..⟩

/-! ### The word a load puts under the fetch (log 3) -/

theorem fetchWord_placeWord (s : State) (op : Word) : (s.placeWord op).fetchWord = op := by
  have hread := read_writeBlock_inside s.mem s.pc.toNat [highByte op, lowByte op]
  calc (s.placeWord op).fetchWord
      = packWord (highByte op) (lowByte op) := congrArg₂ packWord (hread 0 Nat.zero_lt_two) (hread 1 Nat.one_lt_two)
    _ = op := packWord_bytes op

theorem readyToFetch_pc_le (s : State) : s.readyToFetch.pc.toNat + 1 ≤ 0xFFF := by
  change (if s.canFetch then s.pc else 0x200).toNat + 1 ≤ 0xFFF
  split
  case isTrue h => exact (canFetch_iff s).1 h
  case isFalse => decide

theorem readyToFetch_slot_lt (s : State) : s.readyToFetch.slot < s.readyToFetch.cfg.speed := by
  have hpos : 0 < s.readyToFetch.cfg.speed := by
    change 0 < if s.cfg.speed = 0 then 1 else s.cfg.speed
    split <;> omega
  change (if s.slot < s.readyToFetch.cfg.speed then s.slot else 0) < s.readyToFetch.cfg.speed
  split
  case isTrue h => exact h
  case isFalse => exact hpos

theorem readyToFetch_runsNext (s : State) : s.readyToFetch.runsNext :=
  ⟨fun h0 => .inl (if_pos h0), rfl, rfl, readyToFetch_slot_lt s, readyToFetch_pc_le s⟩

/-- Placing a word writes memory, which the plan of the next step reads in no condition. -/
theorem State.runsNext.placeWord {s : State} (h : s.runsNext) (op : Word) : (s.placeWord op).runsNext := h

theorem decodeTableWord_eq (nbits w : Nat) : decodeTableWord nbits w = some (decode (tableWord nbits w)) := by
  rw [decodeTableWord, decodeBytes_pair, packWord_bytes]

/-- Right after reset the loading aid has nothing to make ready. -/
theorem readyToFetch_reset : State.reset.readyToFetch = State.reset := rfl

/-- Settles O6: making ready gives an instruction slot, and the placed word is the one fetched. -/
theorem placedWordRunsNext : Obligations.PlacedWordRunsNext := by
  refine ⟨fun s w => ⟨(readyToFetch_runsNext s).placeWord _, ?_⟩, fun w => ?_⟩
  · rw [decodeTableWord_eq, State.withFetchWord, fetchWord_placeWord]
  · rw [State.withFetchWord, readyToFetch_reset]
    rfl

/-- Settles O7: in an instruction slot whose word does not lie inside memory the plan is the fetch fault. -/
theorem fetchAboveMemoryLatches : Obligations.FetchAboveMemoryLatches := by
  intro s ht hf hm hs hp
  have hplan : planTick s.opened = .move s.opened.fetchFault.faultFrame :=
    planTick_of_fetchFault (by simpa using hf) (by simpa using hs) (by simpa using hm) (by simpa using hp)
  rw [step_of_move ((plan_of_ticks ht).trans hplan), ← opened_pc s]
  rfl

end Sys2Proof.Machine
end

section
/-!
SUPPORT. A store over the next instruction (20_memory.md R53): the fetch after it reads what was stored.
-/

namespace Sys2Proof.Machine

open Sys2Proof

/-- Two states that agree in memory and `PC` fetch the same word. -/
theorem fetchWord_congr {s t : State} (hm : t.mem = s.mem) (hp : t.pc = s.pc) : t.fetchWord = s.fetchWord := by
  simp only [State.fetchWord, hm, hp]

@[simp] theorem finishSlot_fetchWord (s : State) : s.finishSlot.fetchWord = s.fetchWord :=
  fetchWord_congr (finishSlot_mem s) (finishSlot_pc s)

/-- A step that runs the instruction at `PC` and answers what it makes of the opened state, its slot counted. -/
theorem step_of_runsNext {s u : State} (h : s.runsNext) (he : exec (decode s.fetchWord) s.opened = .next u) :
    step s = .next u.finishSlot := by
  obtain ⟨ht, hf, hm, hs, hp⟩ := h
  have hplan : planTick s.opened = .run (decode s.opened.fetchWord) s.opened :=
    planTick_of_run (by simpa using hf) (by simpa using hs) (by simpa using hm) (by simpa using hp)
  rw [opened_fetchWord] at hplan
  exact step_of_run ((plan_of_ticks ht).trans hplan) he

/-- After a slot that latched no fault and was not the frame's last, a core still running with its `PC` inside memory
executes the instruction there, and nothing else. -/
theorem step_after_finishSlot {t : State} (hf : t.flt = .none) (hm : t.mode = .running)
    (hs : t.slot + 1 < t.cfg.speed) (hp : t.pc.toNat + 1 ≤ 0xFFF) :
    ∃ u, exec (decode t.fetchWord) t.finishSlot = .next u ∧ step t.finishSlot = .next u.finishSlot := by
  have hslot : t.finishSlot.slot = t.slot + 1 := by rw [State.finishSlot, if_pos hf]
  have h0 : t.finishSlot.slot ≠ 0 := by omega
  have hruns : t.finishSlot.runsNext :=
    ⟨fun h => absurd h h0, by simpa using hf, by simpa using hm, by rwa [hslot, finishSlot_cfg], by simpa using hp⟩
  obtain ⟨u, hu⟩ := exec_next (decode t.fetchWord) t.finishSlot
  exact ⟨u, hu, step_of_runsNext hruns (by rwa [finishSlot_fetchWord, opened_of_slot h0])⟩

/-! ### What the two storing instructions leave in memory -/

theorem storesOf_ldBVx (x : RegIdx) (s : State) : storesOf (.ldBVx x) s = bcdDigits (s.reg x) := by
  have hlt := (s.reg x).isLt
  have hhundreds : (s.reg x).toNat / 100 % 10 = (s.reg x).toNat / 100 := by omega
  simp [storesOf, bcdDigits, hhundreds]

theorem storesOf_ldMiVx (x : RegIdx) (s : State) : storesOf (.ldMiVx x) s = s.regsUpTo x := by
  have hlt := x.isLt
  apply List.ext_getElem
  · simp [storesOf, regsUpTo_length]
  · intro j hj hj'
    have h16 : j < 16 := by rw [regsUpTo_length] at hj'; omega
    simp [storesOf, State.reg, regsUpTo_getElem s x j hj' h16, Nat.mod_eq_of_lt h16]

/-- Both storing instructions, said once: `PC` advances and the block is stored from `I` upward
(43_index_memory.md R133, R134). -/
theorem exec_store {i : Instr} {x : RegIdx} {s : State} (hi : i = .ldBVx x ∨ i = .ldMiVx x)
    (h : faultOf i s = .none) : exec i s = .next (s.advance.storeBlock (storesOf i s)) := by
  rcases hi with rfl | rfl
  · rw [storesOf_ldBVx, exec_ldBVx h]
  · rw [storesOf_ldMiVx, exec_ldMiVx h]

/-- `byteAfter` is what a read gives once the block is stored (20_memory.md R46). -/
theorem read_storeBlock_storesOf (i : Instr) (s : State) (a : Nat) :
    Memory.read (s.advance.storeBlock (storesOf i s)).mem a = byteAfter i s a := by
  change Memory.read (Memory.writeBlock s.mem s.i.toNat (storesOf i s)) a = _
  rw [read_writeBlock, byteAfter]
  by_cases hlo : s.i.toNat ≤ a
  · rw [if_pos hlo]
    by_cases hhi : a - s.i.toNat < (storesOf i s).length
    · rw [dif_pos (by omega), List.getD_eq_getElem _ _ hhi]
    · rw [dif_neg (by omega), List.getD_eq_default _ _ (by omega)]
  · rw [if_neg hlo, dif_neg (by omega)]

/-- The word at the next instruction's address, once the block is stored. -/
theorem fetchWord_storeBlock_storesOf (i : Instr) {s : State} (hp : s.pc.toNat + 3 ≤ 0xFFF) :
    (s.advance.storeBlock (storesOf i s)).fetchWord =
      packWord (byteAfter i s (s.pc.toNat + 2)) (byteAfter i s (s.pc.toNat + 3)) := by
  have hpc : (s.advance.storeBlock (storesOf i s)).pc.toNat = s.pc.toNat + 2 := pc_add_two (w := s.pc) (by omega)
  rw [State.fetchWord, hpc, read_storeBlock_storesOf, read_storeBlock_storesOf]

/-- Opening a frame step changes neither whether an instruction faults nor what it leaves in memory. -/
theorem opened_faultOf (i : Instr) (s : State) : faultOf i s.opened = faultOf i s := by
  rw [opened_eq]; rfl

theorem opened_byteAfter (i : Instr) (s : State) (a : Nat) : byteAfter i s.opened a = byteAfter i s a := by
  rw [opened_eq]; rfl

/-- Settles O45: after the store the fetch reads `byteAfter`, the slot's end leaves the fetch alone, and the next slot of
the frame executes what is fetched. -/
theorem storedInstructionIsFetched : Obligations.StoredInstructionIsFetched := by
  intro i x s hi hf hp w
  have hpc : (s.pc + 2).toNat + 1 ≤ 0xFFF := by rw [pc_add_two (by omega)]; omega
  refine ⟨⟨_, exec_store hi hf, (canFetch_iff _).2 hpc, fetchWord_storeBlock_storesOf i hp⟩, fun hr hd => ?_⟩
  have hexec := exec_store hi ((opened_faultOf i s).trans hf)
  have hword := fetchWord_storeBlock_storesOf i (s := s.opened) (by simpa using hp)
  rw [opened_byteAfter, opened_byteAfter, opened_pc] at hword
  have ⟨_, hflt, hmode, _⟩ := hr
  generalize ht : s.opened.advance.storeBlock (storesOf i s.opened) = t at hexec hword
  have hpct : t.pc.toNat + 1 ≤ 0xFFF := by simpa [← ht] using hpc
  refine ⟨t.finishSlot, step_of_runsNext hr (hd ▸ hexec), ?_, (finishSlot_fetchWord t).trans hword, fun hs => ?_⟩
  · rwa [canFetch_iff, finishSlot_pc]
  · rw [show w = t.fetchWord from hword.symm]
    exact step_after_finishSlot (by simpa [← ht] using hflt) (by simpa [← ht] using hmode)
      (by simpa [← ht] using hs) hpct

end Sys2Proof.Machine
end

section
/-!
SUPPORT. The decoder and the encoder are inverse to each other (30_encoding.md R64 to R69). In the families 0, 8, E and F a
key that names an instruction is given back by that instruction's row, and any other key by the reserved term that carries
it; in the other families the fields are the operands.
-/

namespace Sys2Proof

/-- A `match` on the number of a vector fixes the vector. -/
theorem eq_ofNat_of_toNat_eq {w k : Nat} {a : BitVec w} (h : a.toNat = k) : a = BitVec.ofNat w k := by
  rw [← h, BitVec.ofNat_toNat, BitVec.setWidth_eq]

/-! ### A word whose family is known -/

theorem encodeA_of_fam {op : Word} {k : Nat} (h : (fieldFam op).toNat = k) :
    encodeA (BitVec.ofNat 4 k) (fieldNnn op) = op := by
  rw [← eq_ofNat_of_toNat_eq h, encodeA_fields]

theorem encodeXK_of_fam {op : Word} {k : Nat} (h : (fieldFam op).toNat = k) :
    encodeXK (BitVec.ofNat 4 k) (fieldX op) (fieldKk op) = op := by
  rw [← eq_ofNat_of_toNat_eq h, encodeXK_fields]

theorem encodeXY_of_fam {op : Word} {k : Nat} (h : (fieldFam op).toNat = k) :
    encodeXY (BitVec.ofNat 4 k) (fieldX op) (fieldY op) (fieldN op) = op := by
  rw [← eq_ofNat_of_toNat_eq h, encodeXY_fields]

theorem decode_encodeA_fam0 (nnn : Imm12) : decode (encodeA 0x0 nnn) = decodeFam0 nnn := by simp [decode]

theorem decode_encodeXY_fam8 (x y : RegIdx) (n : Nibble) : decode (encodeXY 0x8 x y n) = decodeFam8 x y n := by
  simp [decode]

theorem decode_encodeXK_famE (x : RegIdx) (kk : Byte) : decode (encodeXK 0xE x kk) = decodeFamE x kk := by simp [decode]

theorem decode_encodeXK_famF (x : RegIdx) (kk : Byte) : decode (encodeXK 0xF x kk) = decodeFamF x kk := by simp [decode]

/-! ### A reserved term is well-formed exactly when its key names no instruction (30_encoding.md R67) -/

theorem wellFormed_unk0 (nnn : Imm12) : (Instr.unk0 nnn).wellFormed = true ↔ nnn ≠ 0x0E0 ∧ nnn ≠ 0x0EE := by
  simp [Instr.wellFormed]

theorem wellFormed_unk8 (x y : RegIdx) (n : Nibble) : (Instr.unk8 x y n).wellFormed = true ↔ n ∉ fam8Known := by
  simp [Instr.wellFormed]

theorem wellFormed_unkE (x : RegIdx) (kk : Byte) : (Instr.unkE x kk).wellFormed = true ↔ kk ∉ famEKnown := by
  simp [Instr.wellFormed]

theorem wellFormed_unkF (x : RegIdx) (kk : Byte) : (Instr.unkF x kk).wellFormed = true ↔ kk ∉ famFKnown := by
  simp [Instr.wellFormed]

/-! ### A key that names no instruction decodes to the reserved term -/

theorem decodeFam0_reserved {nnn : Imm12} (h : nnn ≠ 0x0E0 ∧ nnn ≠ 0x0EE) : decodeFam0 nnn = .unk0 nnn := by
  rw [decodeFam0, if_neg h.1, if_neg h.2]

theorem decodeFam8_reserved (x y : RegIdx) {n : Nibble} (h : n ∉ fam8Known) : decodeFam8 x y n = .unk8 x y n := by
  unfold decodeFam8
  split
  case h_10 => rfl
  all_goals next hn => exact absurd (by rw [eq_ofNat_of_toNat_eq hn]; decide) h

theorem decodeFamE_reserved (x : RegIdx) {kk : Byte} (h : kk ∉ famEKnown) : decodeFamE x kk = .unkE x kk := by
  unfold decodeFamE
  split
  case h_3 => rfl
  all_goals next hk => exact absurd (by rw [eq_ofNat_of_toNat_eq hk]; decide) h

theorem decodeFamF_reserved (x : RegIdx) {kk : Byte} (h : kk ∉ famFKnown) : decodeFamF x kk = .unkF x kk := by
  unfold decodeFamF
  split
  case h_10 => rfl
  all_goals next hk => exact absurd (by rw [eq_ofNat_of_toNat_eq hk]; decide) h

/-! ### What a keyed family decodes to is well-formed and encodes to the word decoded -/

theorem decodeFam0_wellFormed_encode (nnn : Imm12) :
    (decodeFam0 nnn).wellFormed = true ∧ encode (decodeFam0 nnn) = encodeA 0x0 nnn := by
  by_cases h : nnn ≠ 0x0E0 ∧ nnn ≠ 0x0EE
  · rw [decodeFam0_reserved h]
    exact ⟨(wellFormed_unk0 nnn).2 h, rfl⟩
  · obtain rfl | rfl : nnn = 0x0E0 ∨ nnn = 0x0EE := by tauto
    · exact ⟨rfl, rfl⟩
    · exact ⟨rfl, rfl⟩

theorem decodeFam8_wellFormed_encode (x y : RegIdx) (n : Nibble) :
    (decodeFam8 x y n).wellFormed = true ∧ encode (decodeFam8 x y n) = encodeXY 0x8 x y n := by
  by_cases h : n ∈ fam8Known
  · unfold fam8Known at h
    fin_cases h <;> exact ⟨rfl, rfl⟩
  · rw [decodeFam8_reserved x y h]
    exact ⟨(wellFormed_unk8 x y n).2 h, rfl⟩

theorem decodeFamE_wellFormed_encode (x : RegIdx) (kk : Byte) :
    (decodeFamE x kk).wellFormed = true ∧ encode (decodeFamE x kk) = encodeXK 0xE x kk := by
  by_cases h : kk ∈ famEKnown
  · unfold famEKnown at h
    fin_cases h <;> exact ⟨rfl, rfl⟩
  · rw [decodeFamE_reserved x h]
    exact ⟨(wellFormed_unkE x kk).2 h, rfl⟩

theorem decodeFamF_wellFormed_encode (x : RegIdx) (kk : Byte) :
    (decodeFamF x kk).wellFormed = true ∧ encode (decodeFamF x kk) = encodeXK 0xF x kk := by
  by_cases h : kk ∈ famFKnown
  · unfold famFKnown at h
    fin_cases h <;> exact ⟨rfl, rfl⟩
  · rw [decodeFamF_reserved x h]
    exact ⟨(wellFormed_unkF x kk).2 h, rfl⟩

/-- Settles O1, by the rows of the table: in the keyed families a row's own key is looked up, and a reserved term carries a
key that no row has; in the other families the fields alone give the term back. -/
theorem decodeAfterEncode : Obligations.DecodeAfterEncode := by
  intro i h
  cases i with
  | cls | ret => rfl
  | unk0 nnn => exact (decode_encodeA_fam0 nnn).trans (decodeFam0_reserved ((wellFormed_unk0 nnn).1 h))
  | ldVxVy x y | orVxVy x y | andVxVy x y | xorVxVy x y | addVxVy x y | subVxVy x y | shrVx x y | subnVxVy x y
  | shlVx x y => exact decode_encodeXY_fam8 x y _
  | unk8 x y n => exact (decode_encodeXY_fam8 x y n).trans (decodeFam8_reserved x y ((wellFormed_unk8 x y n).1 h))
  | skp x | sknp x => exact decode_encodeXK_famE x _
  | unkE x kk => exact (decode_encodeXK_famE x kk).trans (decodeFamE_reserved x ((wellFormed_unkE x kk).1 h))
  | ldVxDt x | ldVxK x | ldDtVx x | ldStVx x | addIVx x | ldFVx x | ldBVx x | ldMiVx x | ldVxMi x =>
    exact decode_encodeXK_famF x _
  | unkF x kk => exact (decode_encodeXK_famF x kk).trans (decodeFamF_reserved x ((wellFormed_unkF x kk).1 h))
  | jp | call | ldINnn | jpV0 | seVxKk | sneVxKk | ldVxKk | addVxKk | rnd | seVxVy | sneVxVy | drw =>
    simp [encode, decode]

/-- Settles O2, by the family of the word: its fields, put together in the family's format, are the word. -/
theorem encodeAfterDecode : Obligations.EncodeAfterDecode := by
  intro op
  unfold decode
  split
  case h_1 h => exact (decodeFam0_wellFormed_encode _).imp_right (·.trans (encodeA_of_fam h))
  case h_9 h => exact (decodeFam8_wellFormed_encode ..).imp_right (·.trans (encodeXY_of_fam h))
  case h_15 h => exact (decodeFamE_wellFormed_encode ..).imp_right (·.trans (encodeXK_of_fam h))
  case h_16 =>
    have h : (fieldFam op).toNat = 0xF := by
      simp only [imp_false] at *
      omega
    exact (decodeFamF_wellFormed_encode ..).imp_right (·.trans (encodeXK_of_fam h))
  case h_2 h | h_3 h | h_11 h | h_12 h => exact ⟨rfl, encodeA_of_fam h⟩
  case h_4 h | h_5 h | h_7 h | h_8 h | h_13 h => exact ⟨rfl, encodeXK_of_fam h⟩
  case h_6 h | h_10 h | h_14 h => exact ⟨rfl, encodeXY_of_fam h⟩

/-- Settles O3: every word and field of the table is a closed term, and is evaluated. -/
theorem specWordsDecode : Obligations.SpecWordsDecode := by
  unfold Obligations.SpecWordsDecode
  decide

end Sys2Proof
end

section
/-!
SUPPORT. The sub-steps of a frame step, one by one (40_execution_cycle.md R80, R81, R83, R84, R89), and the whole frame step
of a waiting core (R90).
-/

namespace Sys2Proof.Machine

open Sys2Proof

/-- A sub-step of a frame step that executes no instruction. -/
theorem step_of_tickMove {s t : State} (ht : s.ticksNext) (h : planTick s.opened = .move t) : step s = .next t :=
  step_of_move ((plan_of_ticks ht).trans h)

/-- Settles O5: the plan is to run the decoded word, and the end of the slot counts it or ends the frame. -/
theorem stepRunsDecodedInstruction : Obligations.StepRunsDecodedInstruction := by
  intro s i hr hd
  have hi : decode s.fetchWord = i := by
    rw [decodeBytes_pair] at hd
    cases hd
    rfl
  obtain ⟨u, hu⟩ := exec_next i s.opened
  rw [step_of_runsNext hr (hi ▸ hu), hu]
  rfl

/-- Settles O8: the plan of a slot of a waiting core is to count it. -/
theorem waitingSlotDoesNothing : Obligations.WaitingSlotDoesNothing := by
  intro s ht hf hm hs
  rw [step_of_tickMove ht (planTick_of_waiting (by simpa using hf) (by simpa using hs) (by simpa using hm)), opened_slot]

/-- The frame step of a faulted core is over at once (40_execution_cycle.md R89). -/
theorem step_of_faulted {s : State} (ht : s.ticksNext) (hf : s.flt ≠ .none) (h1 : 1 ≤ s.cfg.speed) :
    step s = .next s.opened.faultFrame :=
  step_of_tickMove ht (planTick_of_fault (by simpa using h1) (by simpa using hf))

/-- Settles O10: the frame step ends before any slot. -/
theorem faultedFrameTickDoesNothing : Obligations.FaultedFrameTickDoesNothing := by
  intro s ht hf h1
  rw [step_of_faulted ht hf h1, ← opened_flt s]
  rfl

/-- After the last slot the step is the end of the frame (40_execution_cycle.md R80). -/
theorem step_of_lastSlot {s : State} (ht : s.ticksNext) (hf : s.flt = .none) (h1 : 1 ≤ s.cfg.speed)
    (hs : s.cfg.speed ≤ s.slot) : step s = .next s.opened.endFrame :=
  step_of_tickMove ht (planTick_of_end (by simpa using h1) (by simpa using hf) (by simpa using hs))

/-! ### The end of a frame -/

theorem endFrame_dt (s : State) : s.endFrame.dt = if s.mode = .running then tick s.dt else s.dt :=
  congrArg State.dt (endFrame_eq s)

theorem endFrame_st (s : State) : s.endFrame.st = if s.mode = .running then tick s.st else s.st :=
  congrArg State.st (endFrame_eq s)

/-- A timer that ticks under a condition, as arithmetic (40_execution_cycle.md R83). -/
theorem ite_tick_toNat (c : Prop) [Decidable c] (b : Byte) :
    (if c then tick b else b).toNat = if c then b.toNat - 1 else b.toNat := by
  rw [apply_ite BitVec.toNat, tick_toNat]

/-- The speaker follows the sound timer that the frame ends with (40_execution_cycle.md R84). -/
theorem endFrame_tone (s : State) : s.endFrame.tone = decide (s.endFrame.st.toNat > 0) := by
  rw [endFrame_eq]

@[simp] theorem endFrame_surface (s : State) : s.endFrame.surface = s.fb :=
  congrArg State.surface (endFrame_eq s)

/-- One speaker command, then the render request (40_execution_cycle.md R80, R84). -/
theorem endFrame_trace (s : State) : s.endFrame.trace =
    s.trace ++ [if s.endFrame.st.toNat > 0 then .spkPlay 440 else .spkStop, .dispRender] := by
  rw [endFrame_eq]
  simp [State.trace]

/-- Settles O9: with all slots run the plan is the end of the frame, whose effect is told field by field. -/
theorem endOfFrameStep : Obligations.EndOfFrameStep := by
  intro s hf h1 hs
  have h0 : s.slot ≠ 0 := by omega
  have hstep : step s = .next s.endFrame := by
    rw [step_of_lastSlot (fun h => absurd h h0) hf h1 hs.ge, opened_of_slot h0]
  refine ⟨s.endFrame, hstep, ?_, ?_, endFrame_trace s, endFrame_tone s, endFrame_surface s, rfl, rfl, ?_⟩
  · rw [endFrame_dt, ite_tick_toNat]
  · rw [endFrame_st, ite_tick_toNat]
  · rw [endFrame_eq]

/-! ### The frame step of a waiting core -/

theorem slotOnce_of_waiting {s : State} (hm : s.mode = .awaitKey) : slotOnce s = .next s := by
  rw [slotOnce, hm]

/-- The batch of a waiting core executes nothing (40_execution_cycle.md R81). -/
theorem batch_of_waiting {s : State} (hf : s.flt = .none) (hm : s.mode = .awaitKey) (n : Nat) : batch n s = .next s := by
  induction n with
  | zero => rfl
  | succ n ih =>
    rw [batch, slotOnce_of_waiting hm]
    exact (if_pos hf).trans ih

/-- What ends a frame step once the batch is over: the end of the frame, or the fault that cut the batch short
(40_execution_cycle.md R80). -/
def State.closeFrame (s : State) : State := if s.flt = .none then s.endFrame else s.faultFrame

theorem closeFrame_of_healthy {s : State} (hf : s.flt = .none) : s.closeFrame = s.endFrame := if_pos hf

theorem closeFrame_of_fault {s : State} (hf : s.flt ≠ .none) : s.closeFrame = s.faultFrame := if_neg hf

theorem frameTick_of_fault {s : State} (hf : s.flt ≠ .none) : frameTick s = .next s.faultFrame := if_pos hf

/-- The one transaction of a core without a fault is its batch, closed. -/
theorem frameTick_of_batch {s t : State} (hf : s.flt = .none) (hb : batch s.cfg.speed s = .next t) :
    frameTick s = .next t.closeFrame := by
  rw [frameTick, if_neg (not_not.2 hf), hb]
  rfl

/-- Settles O12: the batch of a waiting core executes nothing, and the end of its frame leaves the timers alone. -/
theorem waitingFrameOnlyRefreshes : Obligations.WaitingFrameOnlyRefreshes := by
  intro s hf hm
  have hr : s.mode ≠ .running := by simp [hm]
  have hst : s.endFrame.st = s.st := by rw [endFrame_st, if_neg hr]
  refine ⟨s.endFrame, ?_, ?_, rfl, ?_⟩
  · rw [frameTick_of_batch hf (batch_of_waiting hf hm _), closeFrame_of_healthy hf]
  · rw [endFrame_trace, hst]
  · rw [endFrame_eq, if_neg hr, if_neg hr]

end Sys2Proof.Machine
end

section
/-!
SUPPORT. The delivery of a key (40_execution_cycle.md R88).
-/

namespace Sys2Proof.Machine

open Sys2Proof

theorem hostKeyDown_of_waiting {s : State} (k : Nibble) (h : s.flt = .none ∧ s.mode = .awaitKey) :
    hostKeyDown k s = { s.setReg s.kx (k.setWidth 8) with mode := .running, answer := none } := if_pos h

/-- Settles O20: the step is the host's transaction, and each of its two cases is told by its own equation. -/
theorem keyDownDelivery : Obligations.KeyDownDelivery := by
  intro s rest k h0 hp
  have hplan : plan s = .move (hostKeyDown k { s with pending := rest }) := by simp only [plan, h0, hp, if_true]
  refine ⟨_, step_of_move hplan, hostKeyDown_pending .., fun hw => ?_, fun hw => ?_⟩
  · rw [hostKeyDown_of_waiting (s := { s with pending := rest }) k hw]
    refine ⟨?_, rfl, fun r hr => reg_setReg_other { s with pending := rest } _ hr, rfl⟩
    calc ((State.setReg { s with pending := rest } s.kx (k.setWidth 8)).reg s.kx).toNat
        = (k.setWidth 8).toNat := congrArg BitVec.toNat (reg_setReg_same ..)
      _ = k.toNat := BitVec.toNat_setWidth_of_le (by decide)
  · rw [hostKeyDown_of_not_waiting (s := { s with pending := rest }) k hw]

end Sys2Proof.Machine
end

section
/-!
SUPPORT. The sub-steps of a frame step lead where its one transaction leads (40_execution_cycle.md R80, R91). A slot of the
batch and an instruction slot of the step differ in the slot counter only, which nothing in a slot reads and which the end of
the frame step resets.
-/

namespace Sys2Proof.Machine

open Sys2Proof

/-! ### One slot -/

theorem finishSlot_of_healthy {s : State} (hf : s.flt = .none) : s.finishSlot = s.withSlot (s.slot + 1) := if_pos hf

theorem finishSlot_of_fault {s : State} (hf : s.flt ≠ .none) : s.finishSlot = s.faultFrame := if_neg hf

/-- Everything a slot of the batch can do (40_execution_cycle.md R81, R82). -/
inductive SlotMove (s : State) : State → Prop
  | waits (hm : s.mode = .awaitKey) : SlotMove s s
  | runs {t : State} (hm : s.mode = .running) (hp : s.canFetch = true) (he : exec (decode s.fetchWord) s = .next t) :
      SlotMove s t
  | fetchFaults (hm : s.mode = .running) (hp : ¬ s.canFetch = true) : SlotMove s s.fetchFault

theorem slotOnce_of_fetch {s : State} (hm : s.mode = .running) (hp : s.canFetch = true) :
    slotOnce s = exec (decode s.fetchWord) s := by
  rw [slotOnce, hm]
  exact if_pos hp

theorem slotOnce_of_fetchFault {s : State} (hm : s.mode = .running) (hp : ¬ s.canFetch = true) :
    slotOnce s = .next s.fetchFault := by
  rw [slotOnce, hm]
  exact if_neg hp

theorem SlotMove.slotOnce {s t : State} (h : SlotMove s t) : slotOnce s = .next t := by
  cases h with
  | waits hm => exact slotOnce_of_waiting hm
  | runs hm hp he => exact (slotOnce_of_fetch hm hp).trans he
  | fetchFaults hm hp => exact slotOnce_of_fetchFault hm hp

theorem exists_slotMove (s : State) : ∃ t, SlotMove s t := by
  cases hm : s.mode with
  | awaitKey => exact ⟨s, .waits hm⟩
  | running =>
    by_cases hp : s.canFetch = true
    · exact (exec_next (decode s.fetchWord) s).imp fun _ he => .runs hm hp he
    · exact ⟨s.fetchFault, .fetchFaults hm hp⟩

/-- A slot leaves the configuration, the slot counter, the host's script and the key levels alone. -/
theorem SlotMove.frame {s t : State} (h : SlotMove s t) :
    t.cfg = s.cfg ∧ t.slot = s.slot ∧ t.pending = s.pending ∧ t.keys = s.keys := by
  cases h with
  | runs _ _ he =>
    have hfr := frame_of_exec he
    exact ⟨hfr.cfg, hfr.slot, hfr.pending, hfr.keys⟩
  | waits | fetchFaults => exact ⟨rfl, rfl, rfl, rfl⟩

/-- A slot does not look at the slot counter. -/
theorem SlotMove.withSlot {s t : State} (k : Nat) (h : SlotMove s t) : SlotMove (s.withSlot k) (t.withSlot k) := by
  cases h with
  | waits hm => exact .waits hm
  | runs hm hp he => exact .runs hm hp (exec_withSlot _ k he)
  | fetchFaults hm hp => exact .fetchFaults (s := s.withSlot k) hm hp

/-- The step that performs a slot does what the slot of the batch does, and then counts it. -/
theorem SlotMove.step {s t : State} (ht : s.ticksNext) (hf : s.flt = .none) (hs : s.slot < s.cfg.speed)
    (h : SlotMove s.opened t) : step s = .next t.finishSlot := by
  have hf' : s.opened.flt = .none := by simpa using hf
  have hs' : s.opened.slot < s.opened.cfg.speed := by simpa using hs
  cases h with
  | waits hm =>
    rw [finishSlot_of_healthy hf']
    exact step_of_tickMove ht (planTick_of_waiting hf' hs' hm)
  | runs hm hp he =>
    exact step_of_run ((plan_of_ticks ht).trans (planTick_of_run hf' hs' hm ((canFetch_iff _).1 hp))) he
  | fetchFaults hm hp =>
    have hpc : 0xFFF < s.opened.pc.toNat + 1 := Nat.lt_of_not_le (mt (canFetch_iff _).2 hp)
    exact step_of_tickMove ht (planTick_of_fetchFault hf' hs' hm hpc)

/-! ### The batch -/

theorem batch_of_slot {s t : State} (h : SlotMove s t) (hf : t.flt = .none) (n : Nat) : batch (n + 1) s = batch n t := by
  rw [batch, h.slotOnce]
  exact if_pos hf

theorem batch_of_slotFault {s t : State} (h : SlotMove s t) (hf : t.flt ≠ .none) (n : Nat) :
    batch (n + 1) s = .next t := by
  rw [batch, h.slotOnce]
  exact if_neg hf

/-- The batch does not look at the slot counter. -/
theorem batch_withSlot {n : Nat} {s t : State} (k : Nat) (h : batch n s = .next t) :
    batch n (s.withSlot k) = .next (t.withSlot k) := by
  induction n generalizing s with
  | zero =>
    cases h
    rfl
  | succ n ih =>
    obtain ⟨u, hu⟩ := exists_slotMove s
    by_cases hf : u.flt = .none
    · rw [batch_of_slot hu hf] at h
      rw [batch_of_slot (hu.withSlot k) hf]
      exact ih h
    · cases (batch_of_slotFault hu hf n).symm.trans h
      exact batch_of_slotFault (hu.withSlot k) hf n

/-- So counting the slots does not change what the rest of the batch does. -/
theorem batch_of_finishSlot {n : Nat} {s t : State} (hf : s.flt = .none) (h : batch n s.finishSlot = .next t) :
    batch n s = .next (t.withSlot s.slot) := by
  rw [finishSlot_of_healthy hf] at h
  exact batch_withSlot (s := s.withSlot (s.slot + 1)) s.slot h

/-- What closes the frame step resets the slot counter. -/
theorem closeFrame_withSlot (k : Nat) (s : State) : (s.withSlot k).closeFrame = s.closeFrame := by
  have hend : (s.withSlot k).endFrame = s.endFrame := by
    rw [endFrame_eq, endFrame_eq]
    rfl
  rw [State.closeFrame, hend]
  rfl

/-! ### The steps of a frame -/

@[simp] theorem opened_keys (s : State) : s.opened.keys = s.keys := by rw [opened_eq]

theorem steps_succ {s t : State} (h : step s = .next t) (n : Nat) : steps (n + 1) s = steps n t := by
  rw [steps, h]

/-- The first `m` states from `s` on are the slots of one frame step, in order: each has one slot more behind it, and the key
levels and the rest of the host's script stand as they did. -/
def FrameStaysOpen (s : State) (m : Nat) : Prop :=
  ∀ k < m, ∃ u, steps k s = .next u ∧ u.slot = s.slot + k ∧ u.opened.pending = s.opened.pending ∧ u.keys = s.keys

theorem frameStaysOpen_one (s : State) : FrameStaysOpen s 1 := by
  intro k hk
  obtain rfl : k = 0 := by omega
  exact ⟨s, rfl, rfl, rfl, rfl⟩

/-- A slot before the frame's further slots. -/
theorem FrameStaysOpen.cons {s t : State} {m : Nat} (hstep : step s = .next t) (hslot : t.slot = s.slot + 1)
    (hp : t.opened.pending = s.opened.pending) (hk : t.keys = s.keys) (h : FrameStaysOpen t m) :
    FrameStaysOpen s (m + 1) := by
  intro k hlt
  cases k with
  | zero => exact ⟨s, rfl, rfl, rfl, rfl⟩
  | succ k =>
    obtain ⟨u, hu, hus, hup, huk⟩ := h k (by omega)
    exact ⟨u, (steps_succ hstep k).trans hu, by omega, hup.trans hp, huk.trans hk⟩

/-- With `n` slots left, the steps up to the end of the frame step are the batch of `n` slots, closed. -/
theorem steps_eq_batch (n : Nat) {s : State} (ht : s.ticksNext) (hf : s.flt = .none) (h1 : 1 ≤ s.cfg.speed)
    (hn : s.slot + n = s.cfg.speed) :
    ∃ t, batch n s.opened = .next t ∧
      ∃ m, 1 ≤ m ∧ m ≤ n + 1 ∧ steps m s = .next t.closeFrame ∧ FrameStaysOpen s m := by
  induction n generalizing s with
  | zero =>
    refine ⟨s.opened, rfl, 1, le_rfl, le_rfl, ?_, frameStaysOpen_one s⟩
    rw [steps_succ (step_of_lastSlot ht hf h1 (by omega)), closeFrame_of_healthy (by simpa using hf)]
    rfl
  | succ n ih =>
    obtain ⟨u, hu⟩ := exists_slotMove s.opened
    have hstep : step s = .next u.finishSlot := hu.step ht hf (by omega)
    by_cases hfu : u.flt = .none
    case neg =>
      refine ⟨u, batch_of_slotFault hu hfu n, 1, le_rfl, by omega, ?_, frameStaysOpen_one s⟩
      rw [steps_succ hstep, finishSlot_of_fault hfu, closeFrame_of_fault hfu]
      rfl
    case pos =>
      obtain ⟨hcfg, hslot, hpend, hkeys⟩ := hu.frame
      rw [opened_cfg] at hcfg
      rw [opened_slot] at hslot
      rw [opened_keys] at hkeys
      have hnext : u.finishSlot.slot = s.slot + 1 := by rw [← hslot, finishSlot_of_healthy hfu]; rfl
      have h0 : u.finishSlot.slot ≠ 0 := by omega
      obtain ⟨t, hb, m, hm1, hmn, hsteps, hstays⟩ := ih (s := u.finishSlot) (fun h => absurd h h0) (by simpa using hfu)
        (by simpa [hcfg] using h1) (by rw [hnext, finishSlot_cfg, hcfg]; omega)
      rw [opened_of_slot h0] at hb
      refine ⟨t.withSlot u.slot, (batch_of_slot hu hfu n).trans (batch_of_finishSlot hfu hb), m + 1, by omega, by omega,
        ?_, hstays.cons hstep hnext ?_ ((finishSlot_keys u).trans hkeys)⟩
      · rw [steps_succ hstep, hsteps, closeFrame_withSlot]
      · rw [opened_of_slot h0, finishSlot_pending, hpend]

/-- Settles O11: a faulted core ends the frame step at once either way; otherwise the steps perform the batch of all `SPEED`
slots and close it. -/
theorem splitFrameTickIsAtomic : Obligations.SplitFrameTickIsAtomic := by
  intro s h0 ht h1
  have houtcome : ∃ n, 1 ≤ n ∧ n ≤ s.cfg.speed + 1 ∧ steps n s = frameTick s.opened ∧ FrameStaysOpen s n := by
    by_cases hf : s.flt = .none
    · obtain ⟨t, hb, n, hn1, hn, hsteps, hstays⟩ := steps_eq_batch s.cfg.speed ht hf h1 (by omega)
      refine ⟨n, hn1, hn, ?_, hstays⟩
      rw [hsteps, frameTick_of_batch (by simpa using hf) (by rwa [opened_cfg])]
    · refine ⟨1, le_rfl, by omega, ?_, frameStaysOpen_one s⟩
      rw [steps_succ (step_of_faulted ht hf h1), frameTick_of_fault (by simpa using hf)]
      rfl
  obtain ⟨n, hn1, hn, hsteps, hstays⟩ := houtcome
  refine ⟨n, hn1, hn, hsteps, fun k hk => ?_⟩
  obtain ⟨u, hu, hslot, hpend, hkeys⟩ := hstays k hk
  have hslot' : u.slot = k := by omega
  refine ⟨u, hu, hslot', fun hpos => ⟨?_, hkeys⟩⟩
  rwa [opened_of_slot (by omega)] at hpend

end Sys2Proof.Machine
end

section
/-!
SUPPORT. Control flow (41_control_flow.md R100 to R108): the return and the call where they complete and where they fault, the
skips as one rule, the jumps.
-/

namespace Sys2Proof.Machine

open Sys2Proof

/-! ### The call stack -/

/-- Settles O21: the return completes exactly on a stack that is not empty. -/
theorem retPopsReturnAddress : Obligations.RetPopsReturnAddress := by
  refine fun s => ⟨decodeAfterEncode .ret rfl, fun h => ?completes, fun h => ?underflows⟩
  case completes =>
    have hf : faultOf .ret s = .none := faultOf_ret.2 h.ne'
    obtain ⟨_, _, he⟩ := exec_ret hf
    exact ⟨_, he, rfl, rfl, fun _ _ => rfl, frame_of_completes hf he⟩
  case underflows =>
    have hf : faultOf .ret s = .stackUnderflow := if_pos h
    rw [exec_of_fault (by simp [hf]), hf]
    rfl

/-- A write to slot `k` leaves the slots below it. -/
theorem stack_set_below (stack : Vector Word 16) {k : Nat} (hk : k < 16) (w : Word) (j : Fin 16) (hj : j.val < k) :
    (stack.set k w)[j.val] = stack[j.val] :=
  Vector.getElem_set_ne _ _ (by omega)

theorem immWord_toNat (nnn : Imm12) : (immWord nnn).toNat = nnn.toNat := BitVec.toNat_setWidth_of_le (by decide)

/-- Settles O23: the call completes exactly on a stack that is not full. -/
theorem callPushesAdvancedPc : Obligations.CallPushesAdvancedPc := by
  refine fun nnn s => ⟨decodeAfterEncode (.call nnn) rfl, fun h => ?completes, fun h => ?overflows⟩
  case completes =>
    have hf : faultOf (.call nnn) s = .none := (faultOf_call nnn).2 h.ne
    obtain ⟨_, he⟩ := exec_call hf
    exact ⟨_, he, Vector.getElem_set_self _, rfl, immWord_toNat nnn, stack_set_below s.stack h _,
      frame_of_completes hf he⟩
  case overflows =>
    have hf : faultOf (.call nnn) s = .stackOverflow := if_pos h
    rw [exec_of_fault (by simp [hf]), hf]
    rfl

/-- What two instructions in a row leave alone, where both may write the same. -/
theorem Frame.trans {w : Writes} {s t u : State} (h : Frame w s t) (k : Frame w t u) : Frame w s u where
  regs r hr := (k.regs r hr).trans (h.regs r hr)
  index hw := (k.index hw).trans (h.index hw)
  memory a ha := (k.memory a ha).trans (h.memory a ha)
  stack hw :=
    let ⟨hsp, hst⟩ := h.stack hw
    let ⟨ksp, kst⟩ := k.stack hw
    ⟨ksp.trans hsp, kst.trans hst⟩
  dt hw := (k.dt hw).trans (h.dt hw)
  st hw := (k.st hw).trans (h.st hw)
  wait hw :=
    let ⟨hmode, hkx⟩ := h.wait hw
    let ⟨kmode, kkx⟩ := k.wait hw
    ⟨kmode.trans hmode, kkx.trans hkx⟩
  fault hw :=
    let ⟨hflt, haddr, hop⟩ := h.fault hw
    let ⟨kflt, kaddr, kop⟩ := k.fault hw
    ⟨kflt.trans hflt, kaddr.trans haddr, kop.trans hop⟩
  display hw := (k.display hw).trans (h.display hw)
  trace hw := (k.trace hw).trans (h.trace hw)
  draws hw := (k.draws hw).trans (h.draws hw)
  surface := k.surface.trans h.surface
  keys := k.keys.trans h.keys
  tone := k.tone.trans h.tone
  cfg := k.cfg.trans h.cfg
  slot := k.slot.trans h.slot
  pending := k.pending.trans h.pending
  answer := k.answer.trans h.answer

/-- Settles O24: the return pops the slot that the call pushed. -/
theorem callThenReturnRoundTrip : Obligations.CallThenReturnRoundTrip := by
  intro nnn s h
  obtain ⟨-, hcall, -⟩ := callPushesAdvancedPc nnn s
  obtain ⟨t, ht, htop, hsp, -, hbelow, hframe⟩ := hcall h
  obtain ⟨-, hret, -⟩ := retPopsReturnAddress t
  obtain ⟨u, hu, hpc, husp, hkept, huframe⟩ := hret (by omega)
  have hback : u.sp.val = s.sp.val := by omega
  refine ⟨t, u, ht, hu, ?_, Fin.ext hback, fun j hj => ?_, hframe.trans huframe⟩
  · simpa [hpc, hsp] using htop
  · exact (hkept j (hback ▸ hj)).trans (hbelow j hj)

/-! ### Jumps -/

/-- Settles O22: the immediate is zero-extended, so its number is the target. -/
theorem jumpSetsPc : Obligations.JumpSetsPc := fun nnn s =>
  ⟨decodeAfterEncode (.jp nnn) rfl, _, rfl, immWord_toNat nnn, (Frame.refl _ s).advance.jump _⟩

theorem byteWord_toNat (b : Byte) : (byteWord b).toNat = b.toNat := BitVec.toNat_setWidth_of_le (by decide)

/-- The target of `Bnnn` needs no reduction: it is at most `0xFFF + 0xFF` (41_control_flow.md R107). -/
theorem immWord_add_byteWord_toNat (nnn : Imm12) (b : Byte) :
    (immWord nnn + byteWord b).toNat = nnn.toNat + b.toNat := by
  have hn := nnn.isLt
  have hb := b.isLt
  have hfits : (immWord nnn).toNat + (byteWord b).toNat < 2 ^ 16 := by
    rw [immWord_toNat, byteWord_toNat]
    omega
  rw [BitVec.toNat_add_of_lt hfits, immWord_toNat, byteWord_toNat]

/-- Settles O27: the sum fits in 16 bits. -/
theorem jumpV0AddsRegisterZero : Obligations.JumpV0AddsRegisterZero := fun nnn s =>
  ⟨decodeAfterEncode (.jpV0 nnn) rfl, _, rfl, immWord_add_byteWord_toNat nnn (s.reg 0), (Frame.refl _ s).advance.jump _⟩

/-! ### Skips -/

/-- The one rule of the skips (40_execution_cycle.md R87): with the advance that comes first, `PC` goes on by 4 or by 2. -/
theorem advance_skipIf_pc (s : State) (c : Bool) : (s.advance.skipIf c).pc = s.pc + (if c = true then 4 else 2) := by
  rw [skipIf_pc, advance_pc]
  cases c
  · rfl
  · exact BitVec.add_assoc s.pc 2 2

theorem advance_skipIf_frame (s : State) (c : Bool) : Frame {} s (s.advance.skipIf c) := (Frame.refl _ s).advance.skipIf c

theorem advance_skipIf_eq_pc {w : Nat} (s : State) (a b : BitVec w) :
    (s.advance.skipIf (a == b)).pc = s.pc + (if a = b then 4 else 2) := by
  simp only [advance_skipIf_pc, beq_iff_eq]

theorem advance_skipIf_ne_pc {w : Nat} (s : State) (a b : BitVec w) :
    (s.advance.skipIf (a != b)).pc = s.pc + (if a ≠ b then 4 else 2) := by
  simp only [advance_skipIf_pc, bne_iff_ne]

/-- Settles O25: both instructions are the skip on their own comparison. -/
theorem skipOnImmediate : Obligations.SkipOnImmediate := fun x kk s =>
  ⟨decodeAfterEncode (.seVxKk x kk) rfl, decodeAfterEncode (.sneVxKk x kk) rfl,
    ⟨_, rfl, advance_skipIf_eq_pc s (s.reg x) kk, advance_skipIf_frame s _⟩,
    ⟨_, rfl, advance_skipIf_ne_pc s (s.reg x) kk, advance_skipIf_frame s _⟩⟩

/-- Settles O26: the words decode to the two skips, and neither reads its low nibble. -/
theorem skipOnRegisters : Obligations.SkipOnRegisters := by
  intro x y n s
  have hse : decode (0x5#4 ++ x ++ y ++ n : Word) = .seVxVy x y n := decodeAfterEncode (.seVxVy x y n) rfl
  have hsne : decode (0x9#4 ++ x ++ y ++ n : Word) = .sneVxVy x y n := decodeAfterEncode (.sneVxVy x y n) rfl
  rw [hse, hsne]
  exact ⟨⟨_, rfl, rfl, advance_skipIf_eq_pc s (s.reg x) (s.reg y), advance_skipIf_frame s _⟩,
    ⟨_, rfl, rfl, advance_skipIf_ne_pc s (s.reg x) (s.reg y), advance_skipIf_frame s _⟩⟩

end Sys2Proof.Machine
end

section
/-!
SUPPORT. Load, arithmetic, logic, shift and random (42_alu.md R110 to R122): the write of one register, and the write of a
register after the flag, whose operands are read from the registers the flag write left.
-/

namespace Sys2Proof.Machine

open Sys2Proof

/-! ### One register is written -/

theorem advance_setReg_frame (s : State) (x : RegIdx) (b : Byte) : Frame { regs := [x] } s (s.advance.setReg x b) :=
  (Frame.refl _ s).advance.setReg (List.mem_singleton_self x) b

/-- Settles O28: `x` is free, so `V[15]` takes the byte like any other register. -/
theorem loadImmediate : Obligations.LoadImmediate := fun x kk s =>
  ⟨decodeAfterEncode (.ldVxKk x kk) rfl, s.advance.setReg x kk, rfl, rfl, reg_setReg_same ..,
    advance_setReg_frame ..⟩

/-- Settles O29: the sum of two bytes is taken modulo 256, and no flag write comes with it. -/
theorem addImmediateWraps : Obligations.AddImmediateWraps := by
  refine fun x kk s => ⟨decodeAfterEncode (.addVxKk x kk) rfl, s.advance.setReg x (s.reg x + kk), rfl, rfl, ?_,
    advance_setReg_frame ..⟩
  rw [reg_setReg_same, BitVec.toNat_add]

/-- Settles O30: the source is read before the write, so `y = x` needs no case of its own. -/
theorem copyRegister : Obligations.CopyRegister := fun x y s =>
  ⟨decodeAfterEncode (.ldVxVy x y) rfl, s.advance.setReg x (s.reg y), rfl, rfl, reg_setReg_same ..,
    advance_setReg_frame ..⟩

/-- Settles O31: each bit of the result is the operation on the two bits. -/
theorem logicOperations : Obligations.LogicOperations := by
  refine fun x y s => ⟨decodeAfterEncode (.orVxVy x y) rfl, decodeAfterEncode (.andVxVy x y) rfl,
    decodeAfterEncode (.xorVxVy x y) rfl,
    ⟨s.advance.setReg x (s.reg x ||| s.reg y), rfl, rfl, advance_setReg_frame .., fun j _ => ?or⟩,
    ⟨s.advance.setReg x (s.reg x &&& s.reg y), rfl, rfl, advance_setReg_frame .., fun j _ => ?and⟩,
    ⟨s.advance.setReg x (s.reg x ^^^ s.reg y), rfl, rfl, advance_setReg_frame .., fun j _ => ?xor⟩⟩
  case or => rw [reg_setReg_same, BitVec.getLsbD_or]
  case and => rw [reg_setReg_same, BitVec.getLsbD_and]
  case xor => rw [reg_setReg_same, BitVec.getLsbD_xor]

/-- Settles O37: what the mask clears stays clear, whatever the byte drawn is. -/
theorem randomByteIsMasked : Obligations.RandomByteIsMasked := by
  intro x kk s
  let t := s.advance.drawRand.2.setReg x (Config.randByte s.draws &&& kk)
  have hreg : t.reg x = Config.randByte s.draws &&& kk := reg_setReg_same ..
  have hframe : Frame { regs := [x], draws := true } s t :=
    ((Frame.refl _ s).advance.drawRand rfl).setReg (List.mem_singleton_self x) _
  refine ⟨decodeAfterEncode (.rnd x kk) rfl, t, rfl, rfl, hreg, ?masked, rfl, hframe⟩
  case masked => rw [hreg, BitVec.and_assoc, BitVec.and_not_self, Laws.EncodesItsRow.and_none]

/-! ### The arithmetic of bytes and the flags as numbers -/

theorem byte_sub_toNat (a b : Byte) : (a - b).toNat = (a.toNat + 256 - b.toNat) % 256 := by
  have := b.isLt
  rw [BitVec.toNat_sub]
  omega

theorem byte_shiftRight_toNat (a : Byte) : (a >>> 1).toNat = a.toNat / 2 := by
  rw [BitVec.toNat_ushiftRight, Nat.shiftRight_eq_div_pow, Nat.pow_one]

theorem byte_shiftLeft_toNat (a : Byte) : (a <<< 1).toNat = 2 * a.toNat % 256 := by
  rw [BitVec.toNat_shiftLeft, Nat.shiftLeft_eq, Nat.pow_one, Nat.mul_comm]

theorem carryFlag_toNat (a b : Byte) : (carryFlag a b).toNat = if a.toNat + b.toNat > 255 then 1 else 0 := by
  rw [carryFlag, Bool.toNat, Bool.cond_decide]

theorem greaterFlag_toNat (a b : Byte) : (greaterFlag a b).toNat = if a.toNat > b.toNat then 1 else 0 := by
  rw [greaterFlag, Bool.toNat, Bool.cond_decide]

theorem lowBitFlag_toNat (a : Byte) : (lowBitFlag a).toNat = a.toNat % 2 := by
  rw [lowBitFlag, BitVec.getLsbD, Nat.toNat_testBit, Nat.pow_zero, Nat.div_one]

theorem highBitFlag_toNat (a : Byte) : (highBitFlag a).toNat = a.toNat / 128 := by
  have := a.isLt
  rw [highBitFlag, BitVec.getLsbD, Nat.toNat_testBit]
  omega

/-! ### The write of a register after the flag (42_alu.md R110) -/

theorem reg_vf_setFlag_toNat (s : State) (f : Bool) : ((s.setFlag f).reg 0xF).toNat = f.toNat :=
  (congrArg BitVec.toNat (reg_setFlag_same s f)).trans (by cases f <;> rfl)

/-- What an instruction does whose rule writes the flag first and a register second: the flag stays where the destination is
another register. -/
theorem exec_flagThenRegister {s : State} {i : Instr} {f : Bool} {x : RegIdx} {b : Byte}
    (h : exec i s = .next ((s.advance.setFlag f).setReg x b)) :
    ∃ t : State, exec i s = .next t ∧ t.pc = s.pc + 2 ∧ t.reg x = b ∧ (x ≠ 0xF → (t.reg 0xF).toNat = f.toNat) ∧
      Frame { regs := [x, 0xF] } s t := by
  refine ⟨_, h, rfl, reg_setReg_same .., fun hx => ?flag, ?frame⟩
  case flag => rw [reg_setReg_other _ b hx.symm, reg_vf_setFlag_toNat]
  case frame => exact ((Frame.refl _ s).advance.setFlag (by simp [vf]) f).setReg (by simp) b

/-- The rows of the tables of R118 and R120: a difference `d` taken after the flag write, where either operand may be the
flag. -/
theorem subtractAfterFlag_rows {s : State} {f : Bool} {p q : RegIdx} {d : Byte}
    (hd : d = (s.advance.setFlag f).reg p - (s.advance.setFlag f).reg q) :
    (p ≠ 0xF → q ≠ 0xF → d.toNat = ((s.reg p).toNat + 256 - (s.reg q).toNat) % 256) ∧
    (p ≠ 0xF → q = 0xF → d.toNat = ((s.reg p).toNat + 256 - f.toNat) % 256) ∧
    (p = 0xF → q ≠ 0xF → d.toNat = (f.toNat + 256 - (s.reg q).toNat) % 256) ∧
    (p = q → d.toNat = 0) := by
  rw [hd]
  refine ⟨fun hp hq => ?neither, fun hp hq => ?subtrahend, fun hp hq => ?minuend, fun hpq => ?same⟩
  case neither => rw [byte_sub_toNat, reg_setFlag_other _ f hp, reg_setFlag_other _ f hq, reg_advance, reg_advance]
  case subtrahend => rw [byte_sub_toNat, reg_setFlag_other _ f hp, hq, reg_vf_setFlag_toNat, reg_advance]
  case minuend => rw [byte_sub_toNat, hp, reg_vf_setFlag_toNat, reg_setFlag_other _ f hq, reg_advance]
  case same => rw [hpq, BitVec.sub_self]; rfl

/-! ### The instructions with a flag -/

/-- Settles O32: the sum is taken from the old operands, so only the destination `V[15]` loses the carry. -/
theorem addReportsCarry : Obligations.AddReportsCarry := by
  intro x y s
  obtain ⟨t, he, hpc, hx, hvf, hframe⟩ := exec_flagThenRegister (i := .addVxVy x y) (s := s) rfl
  refine ⟨decodeAfterEncode (.addVxVy x y) rfl, t, he, hpc, ?sum, fun hne => ?carry, hframe⟩
  case sum => rw [hx, BitVec.toNat_add]
  case carry =>
    apply BitVec.eq_of_toNat_eq
    rw [hvf hne, carryFlag_toNat]
    split <;> rfl

/-- Settles O33: the rows of R118, with `V[x]` the minuend. -/
theorem subtractReportsGreater : Obligations.SubtractReportsGreater := by
  intro x y s
  obtain ⟨t, he, hpc, hval, hvf, hframe⟩ := exec_flagThenRegister (i := .subVxVy x y) (s := s) rfl
  obtain ⟨hneither, hsubtrahend, hminuend, hsame⟩ := subtractAfterFlag_rows hval
  rw [greaterFlag_toNat] at hvf hsubtrahend hminuend
  refine ⟨decodeAfterEncode (.subVxVy x y) rfl, t, he, hpc, ⟨?distinct, ?flagIsY, ?flagIsX, ?flagIsBoth⟩, hframe⟩
  case distinct => exact fun ⟨hx, hy⟩ => ⟨hneither hx hy, hvf hx⟩
  case flagIsY => exact fun ⟨hx, hy⟩ => ⟨hsubtrahend hx hy, hvf hx⟩
  case flagIsX =>
    rintro ⟨rfl, hy⟩
    exact hminuend rfl hy
  case flagIsBoth =>
    rintro ⟨rfl, rfl⟩
    exact hsame rfl

/-- Settles O35: the rows of R120, with `V[x]` the subtrahend. -/
theorem subtractReversedReportsGreater : Obligations.SubtractReversedReportsGreater := by
  intro x y s
  obtain ⟨t, he, hpc, hval, hvf, hframe⟩ := exec_flagThenRegister (i := .subnVxVy x y) (s := s) rfl
  obtain ⟨hneither, hsubtrahend, hminuend, hsame⟩ := subtractAfterFlag_rows hval
  rw [greaterFlag_toNat] at hvf hsubtrahend hminuend
  refine ⟨decodeAfterEncode (.subnVxVy x y) rfl, t, he, hpc, ⟨?distinct, ?flagIsY, ?flagIsX, ?flagIsBoth⟩, hframe⟩
  case distinct => exact fun ⟨hx, hy⟩ => ⟨hneither hy hx, hvf hx⟩
  case flagIsY => exact fun ⟨hx, hy⟩ => ⟨hminuend hy hx, hvf hx⟩
  case flagIsX =>
    rintro ⟨rfl, hy⟩
    exact hsubtrahend hy rfl
  case flagIsBoth =>
    rintro ⟨rfl, rfl⟩
    exact hsame rfl

/-- Settles O34: a flag halved is 0. -/
theorem shiftRightReportsLostBit : Obligations.ShiftRightReportsLostBit := by
  intro x z s
  obtain ⟨t, he, hpc, hval, hvf, hframe⟩ := exec_flagThenRegister (i := .shrVx x z) (s := s) rfl
  rw [lowBitFlag_toNat] at hvf
  refine ⟨decodeAfterEncode (.shrVx x z) rfl, t, he, hpc, fun hx => ⟨?half, hvf hx⟩, ?aliased, hframe⟩
  case half => rw [hval, byte_shiftRight_toNat, reg_setFlag_other _ _ hx, reg_advance]
  case aliased =>
    rintro rfl
    rw [hval, byte_shiftRight_toNat, reg_vf_setFlag_toNat, lowBitFlag_toNat]
    omega

/-- Settles O36: a flag doubled is at most 2, so nothing of it is lost. -/
theorem shiftLeftReportsLostBit : Obligations.ShiftLeftReportsLostBit := by
  intro x z s
  obtain ⟨t, he, hpc, hval, hvf, hframe⟩ := exec_flagThenRegister (i := .shlVx x z) (s := s) rfl
  rw [highBitFlag_toNat] at hvf
  refine ⟨decodeAfterEncode (.shlVx x z) rfl, t, he, hpc, fun hx => ⟨?twice, hvf hx⟩, ?aliased, hframe⟩
  case twice => rw [hval, byte_shiftLeft_toNat, reg_setFlag_other _ _ hx, reg_advance]
  case aliased =>
    rintro rfl
    rw [hval, byte_shiftLeft_toNat, reg_vf_setFlag_toNat, highBitFlag_toNat]
    have := (s.reg 0xF).isLt
    omega

end Sys2Proof.Machine
end

section
/-!
SUPPORT. The address register and memory (43_index_memory.md R130 to R136): the write of `I` alone, and the moves between
memory and the registers where the block lies inside memory (20_memory.md R44).
-/

namespace Sys2Proof.Machine

open Sys2Proof

/-! ### The block lies inside memory -/

/-- A read inside the block stored from `I` upward (43_index_memory.md R136). -/
theorem read_storeBlock (s : State) {bs : List Byte} {j : Nat} (h : j < bs.length) :
    Memory.read (s.storeBlock bs).mem (s.i.toNat + j) = bs[j] :=
  read_writeBlock_inside s.mem s.i.toNat bs j h

/-- Settles O41: the block stored is the three digits, and each is below 256. -/
theorem decimalDigitsStored : Obligations.DecimalDigitsStored := by
  refine fun x s => ⟨decodeAfterEncode (.ldBVx x) rfl, fun h => ?_⟩
  have hf : faultOf (.ldBVx x) s = .none := if_neg (not_lt.2 h)
  have hexec := exec_ldBVx hf
  have hdigit (j : Nat) (hj : j < 3) := congrArg BitVec.toNat (read_storeBlock s.advance (bs := bcdDigits (s.reg x)) hj)
  have hbyte := (s.reg x).isLt
  refine ⟨_, hexec, rfl, ?hundreds, ?tens, ?ones, frame_of_completes hf hexec⟩
  case hundreds => exact (hdigit 0 (by decide)).trans (Nat.mod_eq_of_lt (by omega))
  case tens => exact (hdigit 1 (by decide)).trans (Nat.mod_eq_of_lt (by omega))
  case ones => exact (hdigit 2 (by decide)).trans (Nat.mod_eq_of_lt (by omega))

/-- The stored block holds register `r` at `I + r` (43_index_memory.md R134). -/
theorem read_storeBlock_regsUpTo (s : State) {x r : RegIdx} (h : r.toNat ≤ x.toNat) :
    Memory.read (s.storeBlock (s.regsUpTo x)).mem (s.i.toNat + r.toNat) = s.reg r := by
  have hlen : r.toNat < (s.regsUpTo x).length := by
    rw [regsUpTo_length]
    omega
  exact (read_storeBlock s hlen).trans (regsUpTo_getElem s x _ hlen r.isLt)

/-- Settles O42: the block stored is `V[0]` to `V[x]`. -/
theorem registersStored : Obligations.RegistersStored := by
  refine fun x s => ⟨decodeAfterEncode (.ldMiVx x) rfl, fun h => ?_⟩
  have hf : faultOf (.ldMiVx x) s = .none := if_neg (not_lt.2 h)
  have hexec := exec_ldMiVx hf
  exact ⟨_, hexec, rfl, fun _ hr => read_storeBlock_regsUpTo s.advance hr, frame_of_completes hf hexec⟩

/-- Settles O43: a register up to `x` is loaded from its own address, and one above `x` is kept. -/
theorem registersLoaded : Obligations.RegistersLoaded := by
  refine fun x s => ⟨decodeAfterEncode (.ldVxMi x) rfl, fun h => ?_⟩
  have hf : faultOf (.ldVxMi x) s = .none := if_neg (not_lt.2 h)
  have hexec := exec_ldVxMi hf
  refine ⟨_, hexec, rfl, fun r hr => ?loaded, fun r hr => ?kept, frame_of_completes hf hexec⟩
  case loaded => exact (reg_loadRegsUpTo s.advance x r).trans (if_pos hr)
  case kept => exact (reg_loadRegsUpTo s.advance x r).trans (if_neg (not_le.2 hr))

/-- Settles O44: the store leaves `I` and the registers alone, so the load reads each register back from where it was
stored. -/
theorem storeThenLoadRestores : Obligations.StoreThenLoadRestores := by
  intro x s h
  obtain ⟨-, hstore⟩ := registersStored x s
  obtain ⟨t, ht, htpc, hstored, htframe⟩ := hstore h
  have hti : t.i = s.i := htframe.index rfl
  obtain ⟨-, hload⟩ := registersLoaded x t
  obtain ⟨u, hu, hupc, hloaded, hkept, huframe⟩ := hload (by rwa [hti])
  refine ⟨t, u, ht, hu, fun r => ?regs, (huframe.index rfl).trans hti, ?pc⟩
  case regs =>
    by_cases hr : r.toNat ≤ x.toNat
    · rw [hloaded r hr, hti, hstored r hr]
    · exact (hkept r (not_le.1 hr)).trans (htframe.regs r List.not_mem_nil)
  case pc =>
    rw [hupc, htpc]
    exact BitVec.add_assoc s.pc 2 2

/-! ### Only `I` is written -/

theorem advance_setIndex_frame (s : State) (a : Word) : Frame { index := true } s { s.advance with i := a } :=
  (Frame.refl _ s).advance.setIndex rfl a

/-- Settles O38: the immediate is zero-extended. -/
theorem loadIndex : Obligations.LoadIndex := fun nnn s =>
  ⟨decodeAfterEncode (.ldINnn nnn) rfl, _, rfl, rfl, immWord_toNat nnn, advance_setIndex_frame s _⟩

/-- Settles O39: the byte is zero-extended and the sum is taken in the 16 bits of `I`. -/
theorem addToIndexWraps16 : Obligations.AddToIndexWraps16 := by
  refine fun x s => ⟨decodeAfterEncode (.addIVx x) rfl, _, rfl, rfl, ?sum, advance_setIndex_frame s _⟩
  case sum => rw [BitVec.toNat_add, byteWord_toNat]

/-- The address of a glyph needs no reduction: it is at most `255 * 5` (43_index_memory.md R132). -/
theorem byteWord_mul_five_toNat (b : Byte) : (byteWord b * 5).toNat = b.toNat * 5 := by
  have hb := b.isLt
  rw [BitVec.toNat_mul, byteWord_toNat]
  exact Nat.mod_eq_of_lt (show b.toNat * 5 < 2 ^ 16 by omega)

/-- Settles O40: the whole byte is multiplied, and the product fits in 16 bits. -/
theorem glyphAddress : Obligations.GlyphAddress := fun x s =>
  ⟨decodeAfterEncode (.ldFVx x) rfl, _, rfl, rfl, byteWord_mul_five_toNat (s.reg x), advance_setIndex_frame s _⟩

end Sys2Proof.Machine
end

section
/-!
SUPPORT. Display, keyboard, timers and the wait (44_io_timers.md R140 to R148). A sprite is the list of its set bits, and
drawing it is one fold of `SetPixel` over that list; the bits fall on distinct pixels, so each command meets its pixel as the
instruction found it.
-/

namespace Sys2Proof.Machine

open Sys2Proof

/-! ### A sprite as the list of its set bits -/

/-- The set bits of the `n`-row sprite at `I`, each as its row and its column, in the order drawn (44_io_timers.md R141). -/
def spriteCells (s : State) (n : Nat) : List (Nat × Nat) :=
  (List.range n ×ˢ List.range 8).filter fun p => spriteBit s p.1 p.2

/-- The pixel that a bit of the sprite drawn at `(x0, y0)` falls on (44_io_timers.md R141 (c)). -/
def cellPixel (x0 y0 : Nat) (p : Nat × Nat) : Fin 64 × Fin 32 := (wrapCol (x0 + p.2), wrapRow (y0 + p.1))

/-- One set bit drawn: its `SetPixel`, and the erasure remembered (44_io_timers.md R141 (a), (b)). -/
def drawCell (x0 y0 : Nat) (acc : State × Bool) (p : Nat × Nat) : State × Bool :=
  let r := acc.1.setPixel (x0 + p.2) (y0 + p.1)
  (r.1, acc.2 || r.2)

/-- The command of one set bit, answered by the picture `f` (10_state.md R31). -/
def cellCommand (f : Screen) (x0 y0 : Nat) (p : Nat × Nat) : PortEvent :=
  .dispSetPixel (BitVec.ofNat 9 (x0 + p.2)) (BitVec.ofNat 9 (y0 + p.1))
    (Screen.pixel f (cellPixel x0 y0 p).1 (cellPixel x0 y0 p).2)

theorem mem_spriteCells {s : State} {n : Nat} {p : Nat × Nat} :
    p ∈ spriteCells s n ↔ p.1 < n ∧ p.2 < 8 ∧ spriteBit s p.1 p.2 = true := by
  obtain ⟨r, c⟩ := p
  simp only [spriteCells, List.mem_filter, List.mem_product, List.mem_range, and_assoc]

theorem cellPixel_eq_iff {x0 y0 : Nat} {p : Nat × Nat} {px : Fin 64} {py : Fin 32} :
    cellPixel x0 y0 p = (px, py) ↔ (x0 + p.2) % 64 = px.val ∧ (y0 + p.1) % 32 = py.val := by
  simp only [cellPixel, Prod.mk.injEq, Fin.ext_iff, wrapCol, wrapRow, Fin.val_ofNat]

theorem spriteCovers_iff {s : State} {x0 y0 n : Nat} {px : Fin 64} {py : Fin 32} :
    spriteCovers s x0 y0 n px py ↔ (px, py) ∈ (spriteCells s n).map (cellPixel x0 y0) := by
  simp only [spriteCovers, List.mem_map, mem_spriteCells, cellPixel_eq_iff, Prod.exists, and_assoc]

/-- A sprite of at most 32 rows does not meet itself when it wraps. -/
theorem nodup_cellPixel (s : State) (x0 y0 : Nat) {n : Nat} (hn : n ≤ 32) :
    ((spriteCells s n).map (cellPixel x0 y0)).Nodup := by
  have hcells : (spriteCells s n).Nodup := (List.nodup_range.product List.nodup_range).filter _
  refine hcells.map_on fun p hp q hq hpq => ?_
  obtain ⟨hprow, hpcol, -⟩ := mem_spriteCells.1 hp
  obtain ⟨hqrow, hqcol, -⟩ := mem_spriteCells.1 hq
  obtain ⟨hcol, hrow⟩ := cellPixel_eq_iff.1 hpq
  rw [wrapCol, Fin.val_ofNat] at hcol
  rw [wrapRow, Fin.val_ofNat] at hrow
  exact Prod.ext (by omega) (by omega)

theorem spriteCommands_eq (s : State) (x0 y0 n : Nat) :
    spriteCommands s x0 y0 n = (spriteCells s n).map (cellCommand s.fb x0 y0) := by
  simp only [spriteCommands, spriteCells, SProd.sprod, List.product, List.filter_flatMap, List.filter_map,
    List.map_flatMap, List.map_map]
  rfl

/-! ### Drawing is one fold over the set bits -/

theorem drawColumn_eq (s : State) (x0 y0 r : Nat) :
    drawColumn x0 (y0 + r) (s.loadByte r) =
      fun acc c => if spriteBit s r c = true then drawCell x0 y0 acc (r, c) else acc := rfl

theorem SameButDisplay.loadByte {s t : State} (h : SameButDisplay s t) (k : Nat) : t.loadByte k = s.loadByte k := by
  rw [h]
  rfl

/-- Drawing leaves memory and `I` alone, so every row is the byte that the instruction found. -/
theorem foldl_drawRow_eq (s : State) (x0 y0 : Nat) (rows : List Nat) {acc : State × Bool} (h : SameButDisplay s acc.1) :
    rows.foldl (fun acc r => drawRow x0 (y0 + r) (acc.1.loadByte r) acc) acc =
      rows.foldl (fun acc r => drawRow x0 (y0 + r) (s.loadByte r) acc) acc := by
  induction rows generalizing acc with
  | nil => rfl
  | cons r rows ih =>
    rw [List.foldl_cons, List.foldl_cons, h.loadByte r]
    exact ih (h.trans (drawRow_same ..))

theorem drawSprite_eq (x0 y0 n : Nat) (s : State) :
    drawSprite x0 y0 n s = (spriteCells s n).foldl (drawCell x0 y0) (s, false) := by
  rw [drawSprite, foldl_drawRow_eq s x0 y0 _ SameButDisplay.rfl]
  simp only [drawRow, drawColumn_eq, spriteCells, SProd.sprod, List.product, List.foldl_filter, List.foldl_flatMap,
    List.foldl_map]

/-! ### What the fold has done -/

/-- What has come of the picture `s.fb` and of the trace when the bits `cells` are drawn. -/
structure Drawn (s : State) (x0 y0 : Nat) (cells : List (Nat × Nat)) (acc : State × Bool) : Prop where
  /-- The pixels toggled are those of the bits. -/
  pixel : ∀ (px : Fin 64) (py : Fin 32), Screen.pixel acc.1.fb px py = true ↔
    ¬ (Screen.pixel s.fb px py = true ↔ (px, py) ∈ cells.map (cellPixel x0 y0))
  /-- An erasure is remembered exactly if a bit fell on a set pixel. -/
  erased : acc.2 = true ↔ ∃ (px : Fin 64) (py : Fin 32),
    Screen.pixel s.fb px py = true ∧ (px, py) ∈ cells.map (cellPixel x0 y0)
  /-- One command per bit, answered by the old picture. -/
  trace : acc.1.trace = s.trace ++ cells.map (cellCommand s.fb x0 y0)

theorem drawCell_fb (x0 y0 : Nat) (acc : State × Bool) (p : Nat × Nat) :
    (drawCell x0 y0 acc p).1.fb = Screen.toggle acc.1.fb (cellPixel x0 y0 p).1 (cellPixel x0 y0 p).2 := rfl

theorem drawCell_erased (x0 y0 : Nat) (acc : State × Bool) (p : Nat × Nat) :
    (drawCell x0 y0 acc p).2 = (acc.2 || Screen.pixel acc.1.fb (cellPixel x0 y0 p).1 (cellPixel x0 y0 p).2) := rfl

theorem drawCell_trace (x0 y0 : Nat) (acc : State × Bool) (p : Nat × Nat) :
    (drawCell x0 y0 acc p).1.trace = acc.1.trace ++ [cellCommand acc.1.fb x0 y0 p] := trace_emit ..

section Drawing

variable {s : State} {x0 y0 : Nat} {cells : List (Nat × Nat)} {acc : State × Bool}

theorem drawn_nil (s : State) (x0 y0 : Nat) : Drawn s x0 y0 [] (s, false) where
  pixel := by simp
  erased := by simp
  trace := by simp

/-- A pixel that no bit has fallen on is as the instruction found it. -/
theorem Drawn.pixel_fresh (h : Drawn s x0 y0 cells acc) {q : Fin 64 × Fin 32} (hq : q ∉ cells.map (cellPixel x0 y0)) :
    Screen.pixel acc.1.fb q.1 q.2 = Screen.pixel s.fb q.1 q.2 := by
  simpa only [hq, iff_false, not_not, Bool.coe_iff_coe] using h.pixel q.1 q.2

/-- One more bit, on a pixel that no bit before it fell on. -/
theorem Drawn.drawCell (h : Drawn s x0 y0 cells acc) {p : Nat × Nat}
    (hp : cellPixel x0 y0 p ∉ cells.map (cellPixel x0 y0)) :
    Drawn s x0 y0 (cells ++ [p]) (Machine.drawCell x0 y0 acc p) where
  pixel px py := by
    rw [drawCell_fb, pixel_toggle, List.map_append, List.map_singleton, List.mem_append, List.mem_singleton]
    by_cases hpp : (px, py) = cellPixel x0 y0 p
    case pos =>
      rw [← hpp] at hp ⊢
      simp [-List.mem_map, h.pixel_fresh hp, hp]
    case neg =>
      have hne : ¬ (px = (cellPixel x0 y0 p).1 ∧ py = (cellPixel x0 y0 p).2) := fun ⟨hx, hy⟩ => hpp (Prod.ext hx hy)
      rw [if_neg hne, h.pixel, or_iff_left hpp]
  erased := by
    rw [drawCell_erased, h.pixel_fresh hp, Bool.or_eq_true, h.erased]
    simp only [List.map_append, List.map_singleton, List.mem_append, List.mem_singleton, and_or_left, exists_or]
    refine or_congr_right ⟨fun hset => ⟨_, _, hset, rfl⟩, fun ⟨px, py, hset, hpp⟩ => ?_⟩
    rwa [← hpp]
  trace := by
    rw [drawCell_trace, h.trace, List.map_append, List.append_assoc, cellCommand, h.pixel_fresh hp]
    rfl

/-- Drawing further bits, all on distinct pixels. -/
theorem Drawn.foldl_drawCell (h : Drawn s x0 y0 cells acc) {more : List (Nat × Nat)}
    (hd : ((cells ++ more).map (cellPixel x0 y0)).Nodup) :
    Drawn s x0 y0 (cells ++ more) (more.foldl (Machine.drawCell x0 y0) acc) := by
  induction more generalizing cells acc with
  | nil => rwa [List.append_nil]
  | cons p more ih =>
    have hp : cellPixel x0 y0 p ∉ cells.map (cellPixel x0 y0) := by
      rw [List.map_append, List.map_cons] at hd
      exact List.disjoint_right.1 (List.disjoint_of_nodup_append hd) List.mem_cons_self
    rw [List.append_cons] at hd ⊢
    exact ih (h.drawCell hp) hd

end Drawing

/-- A sprite of at most 32 rows, drawn. -/
theorem drawSprite_drawn (s : State) (x0 y0 : Nat) {n : Nat} (hn : n ≤ 32) :
    Drawn s x0 y0 (spriteCells s n) (drawSprite x0 y0 n s) := by
  rw [drawSprite_eq]
  exact (drawn_nil s x0 y0).foldl_drawCell (nodup_cellPixel s x0 y0 hn)

/-! ### The draw instruction -/

theorem faultOf_drw_none (x y : RegIdx) {n : Nibble} {s : State} (h : n.toNat = 0 ∨ s.i.toNat + n.toNat - 1 ≤ 0xFFF) :
    faultOf (.drw x y n) s = .none :=
  if_neg fun ⟨hn, hi⟩ => by omega

/-- What a draw that completes answers: the sprite drawn at the old registers, and after it the flag. -/
theorem exec_drw_drawn {x y : RegIdx} {n : Nibble} {s : State} (h : faultOf (.drw x y n) s = .none) :
    ∃ acc : State × Bool, exec (.drw x y n) s = .next (acc.1.setFlag acc.2) ∧ acc.1.pc = s.pc + 2 ∧
      Drawn s (s.reg x).toNat (s.reg y).toNat (spriteCells s n.toNat) acc := by
  have hn := n.isLt
  have hd := drawSprite_drawn s.advance (s.reg x).toNat (s.reg y).toNat (n := n.toNat) (by omega)
  exact ⟨_, exec_drw h, (drawSprite_same ..).pc, ⟨hd.pixel, hd.erased, hd.trace⟩⟩

theorem setFlag_reg_vf_eq_one (s : State) (f : Bool) : (s.setFlag f).reg 0xF = 1 ↔ f = true := by
  rw [show (s.setFlag f).reg 0xF = if f then 1 else 0 from reg_setFlag_same s f]
  cases f <;> decide

theorem setFlag_reg_vf_bit (s : State) (f : Bool) : (s.setFlag f).reg 0xF = 0 ∨ (s.setFlag f).reg 0xF = 1 := by
  rw [show (s.setFlag f).reg 0xF = if f then 1 else 0 from reg_setFlag_same s f]
  cases f <;> decide

/-- Settles O47: the fold over the set bits toggles each covered pixel once. -/
theorem drawTogglesSprite : Obligations.DrawTogglesSprite := by
  refine fun x y n s => ⟨decodeAfterEncode (.drw x y n) rfl, fun h => ?_⟩
  have hf := faultOf_drw_none x y h
  obtain ⟨acc, he, hpc, hd⟩ := exec_drw_drawn hf
  simp only [spriteCovers_iff]
  refine ⟨_, he, hpc, hd.pixel, setFlag_reg_vf_bit .., ?erased, frame_of_completes hf he⟩
  case erased => rw [setFlag_reg_vf_eq_one, hd.erased]

/-- Settles O48: the fold issues its commands in the order of the set bits. -/
theorem drawCommandsInOrder : Obligations.DrawCommandsInOrder := by
  intro x y n s h
  obtain ⟨acc, he, -, hd⟩ := exec_drw_drawn (faultOf_drw_none x y h)
  exact ⟨_, he, hd.trace.trans (by rw [spriteCommands_eq])⟩

theorem spriteCovers_congr {s t : State} (h : ∀ k, t.loadByte k = s.loadByte k) (x0 y0 n : Nat) (px : Fin 64)
    (py : Fin 32) : spriteCovers t x0 y0 n px py ↔ spriteCovers s x0 y0 n px py := by
  simp only [spriteCovers, spriteBit, h]

/-- A set bit of the sprite covers the pixel it wraps to. -/
theorem spriteCovers_of_bit {s : State} {n r c : Nat} (hr : r < n) (hc : c < 8) (hb : spriteBit s r c = true)
    (x0 y0 : Nat) : spriteCovers s x0 y0 n (wrapCol (x0 + c)) (wrapRow (y0 + r)) :=
  ⟨r, c, hr, hc, hb, rfl, rfl⟩

/-- Settles O49: the first draw leaves the sprite and its coordinates alone, so the second covers the same pixels. -/
theorem drawTwiceRestores : Obligations.DrawTwiceRestores := by
  intro x y n s hx hy h
  obtain ⟨-, hfirst⟩ := drawTogglesSprite x y n s
  obtain ⟨t, ht, -, htpix, htbit, htflag, htframe⟩ := hfirst h
  have hti : t.i = s.i := htframe.index rfl
  have hbytes (k : Nat) : t.loadByte k = s.loadByte k := by
    rw [State.loadByte, State.ea, hti]
    exact htframe.memory _ fun ⟨_, hlt⟩ => absurd hlt (Nat.not_lt_zero _)
  obtain ⟨-, hsecond⟩ := drawTogglesSprite x y n t
  obtain ⟨u, hu, -, hupix, -, huflag, -⟩ := hsecond (by rwa [hti])
  have hreg {r : RegIdx} (hr : r ≠ 0xF) : t.reg r = s.reg r := htframe.regs r (List.mem_singleton.not.2 hr)
  simp only [hreg hx, hreg hy, spriteCovers_congr hbytes] at hupix huflag
  refine ⟨t, u, ht, hu, fun px py => Bool.coe_iff_coe.1 ?restored, fun hblank ⟨r, c, hr, hc, hb⟩ => ⟨?first, ?second⟩⟩
  case restored =>
    rw [hupix, htpix, not_iff, not_not, iff_assoc]
    exact iff_comm
  case first =>
    refine htbit.resolve_right fun h1 => ?_
    obtain ⟨px, py, hset, -⟩ := htflag.1 h1
    exact Bool.false_ne_true ((hblank px py).symm.trans hset)
  case second =>
    have hcov := spriteCovers_of_bit hr hc hb (s.reg x).toNat (s.reg y).toNat
    refine huflag.2 ⟨_, _, (htpix _ _).2 ?_, hcov⟩
    simp [hblank, hcov]

/-! ### The other instructions -/

/-- Settles O46: one command, and the picture is the blank one. -/
theorem clearDisplay : Obligations.ClearDisplay := fun _ =>
  ⟨decodeAfterEncode .cls rfl, _, rfl, rfl, trace_emit .., pixel_blank, frame_of_completes (i := .cls) rfl rfl⟩

/-- The key predicate of 44_io_timers.md R148 as the skips test it. -/
theorem pressed_iff (s : State) (c : Byte) : s.pressed c = true ↔ c.toNat ≤ 15 ∧ s.keys.getLsbD c.toNat = true := by
  rw [State.pressed, Bool.and_eq_true, decide_eq_true_iff]

/-- Settles O51: both instructions are the skip on the key predicate or its negation. -/
theorem skipOnKey : Obligations.SkipOnKey := by
  refine fun x s => ⟨decodeAfterEncode (.skp x) rfl, decodeAfterEncode (.sknp x) rfl,
    ⟨_, rfl, advance_skipIf_frame s _, ?pressed⟩, ⟨_, rfl, advance_skipIf_frame s _, ?released⟩⟩
  case pressed => simp only [advance_skipIf_pc, pressed_iff]
  case released =>
    simp only [advance_skipIf_pc, Bool.not_eq_true', ← Bool.not_eq_true, pressed_iff]
    rw [ite_not]

/-- Settles O52: each move writes one register or one timer after the advance. -/
theorem timerRegisterMoves : Obligations.TimerRegisterMoves := fun x s =>
  ⟨decodeAfterEncode (.ldVxDt x) rfl, decodeAfterEncode (.ldDtVx x) rfl, decodeAfterEncode (.ldStVx x) rfl,
    ⟨_, rfl, rfl, reg_setReg_same .., advance_setReg_frame ..⟩,
    ⟨_, rfl, rfl, rfl, (Frame.refl _ s).advance.setDt rfl _⟩,
    ⟨_, rfl, rfl, rfl, (Frame.refl _ s).advance.setSt rfl _⟩⟩

/-- Settles O53: the wait writes `KX` and `MODE` and leaves the registers to the key delivery. -/
theorem waitForKeySuspends : Obligations.WaitForKeySuspends := fun x s =>
  ⟨decodeAfterEncode (.ldVxK x) rfl, _, rfl, rfl, rfl, rfl, (Frame.refl _ s).advance.suspend rfl x⟩

end Sys2Proof.Machine
end

section
/-!
SUPPORT. The reserved spaces (45_unknown_subopcodes.md R160 to R164): each is the common no-operation, whose diagnostic
carries the word the term was decoded from.
-/

namespace Sys2Proof.Machine

open Sys2Proof

/-- What the common no-operation does (45_unknown_subopcodes.md R160). -/
theorem unknownNop_diagnoses (i : Instr) (s : State) :
    ∃ t : State, unknownNop i s = .next t ∧ t.pc = s.pc + 2 ∧
      t.trace = s.trace ++ [.diagUnknown s.pc (encode i)] ∧ Frame { trace := true } s t :=
  ⟨_, rfl, rfl, trace_emit .., (Frame.refl _ s).advance.emit rfl _⟩

/-- Settles O54: the diagnostic carries the term encoded, which is the word it was decoded from. -/
theorem unknownIsDiagnosedNop : Obligations.UnknownIsDiagnosedNop := by
  rintro s op i rfl hi
  have hexec : exec (decode op) s = unknownNop (decode op) s := by
    obtain ⟨nnn, h⟩ | ⟨x, y, n, h⟩ | ⟨x, kk, h⟩ | ⟨x, kk, h⟩ := hi
    all_goals rw [h]; rfl
  obtain ⟨-, hword⟩ := encodeAfterDecode op
  have hnop := unknownNop_diagnoses (decode op) s
  rwa [← hexec, hword] at hnop

end Sys2Proof.Machine
end

section
/-!
SUPPORT. Faults and outcomes (60_exceptions.md R170, R174): every step answers a next state, and an instruction touches the
fault record exactly where the table lists a fault.
-/

namespace Sys2Proof.Machine

open Sys2Proof

/-- A sub-step of a frame step answers a next state: the frame ends by a fault, a slot is run, or the frame is over. -/
theorem step_next_of_ticks {s : State} (ht : s.ticksNext) (h1 : 1 ≤ s.cfg.speed) : ∃ t, step s = .next t := by
  by_cases hf : s.flt = .none
  case neg => exact ⟨_, step_of_faulted ht hf h1⟩
  by_cases hs : s.slot < s.cfg.speed
  case neg => exact ⟨_, step_of_lastSlot ht hf h1 (Nat.le_of_not_lt hs)⟩
  obtain ⟨_, hslot⟩ := exists_slotMove s.opened
  exact ⟨_, hslot.step ht hf hs⟩

/-- Settles O15: a host transaction is a move of the plan, and everything else is a sub-step of a frame step. -/
theorem everyStepAnswersNext : Obligations.EveryStepAnswersNext := by
  intro s h1
  rcases plan_cases s with ⟨ht, -⟩ | ⟨-, _, _, -, -, hm⟩
  case inl => exact step_next_of_ticks ht h1
  rcases hm with ⟨-, hp⟩ | ⟨-, hp⟩ | ⟨_, -, hp⟩ | ⟨_, -, hp⟩ | ⟨_, _, -, hp⟩ <;> exact ⟨_, step_of_move hp⟩

/-- Settles O56: a listed fault is raised with its record, and the frame of a completing instruction has no fault record. -/
theorem faultsExactlyWhenListed : Obligations.FaultsExactlyWhenListed := by
  refine fun i s => ⟨fun h => ?faults, fun h => ?completes⟩
  case faults =>
    rw [exec_of_fault h]
    rfl
  case completes =>
    obtain ⟨t, he, hfr⟩ := exec_frame h
    exact ⟨t, he, hfr.fault (writesOf_fault i s)⟩

end Sys2Proof.Machine
end

section
/-!
SUPPORT. The collaborators' contracts: one pixel of the display (60_exceptions.md R185) and one level of the keyboard (R188).
-/

namespace Sys2Proof.Machine

open Sys2Proof

/-- Settles O50: the coordinates wrap to the given pixel, and a toggle changes that pixel and no other. -/
theorem setPixelTogglesAndReports : Obligations.SetPixelTogglesAndReports := by
  intro s x y px py hx hy
  obtain rfl : px = wrapCol x := Fin.ext hx
  obtain rfl : py = wrapRow y := Fin.ext hy
  refine ⟨rfl, ?toggled, fun qx qy hq => ?kept⟩
  case toggled => exact (pixel_toggle ..).trans (if_pos ⟨rfl, rfl⟩)
  case kept => exact (pixel_toggle ..).trans (if_neg (not_and_or.2 hq))

/-- The level event of key `k` read key by key (60_exceptions.md R188). -/
theorem keyboardLevel_getLsbD (k c : Nibble) (down : Bool) (s : State) :
    (keyboardLevel k down s).keys.getLsbD c.toNat = if c = k then down else s.keys.getLsbD c.toNat := by
  have hc : c.toNat < 16 := c.isLt
  have hbit : (BitVec.twoPow 16 k.toNat).getLsbD c.toNat = decide (c = k) := by
    simp [BitVec.toNat_inj, eq_comm, hc]
  cases down
  case true =>
    change (s.keys ||| BitVec.twoPow 16 k.toNat).getLsbD c.toNat = _
    rw [BitVec.getLsbD_or, hbit]
    by_cases h : c = k <;> simp [h]
  case false =>
    change (s.keys &&& ~~~(BitVec.twoPow 16 k.toNat)).getLsbD c.toNat = _
    rw [BitVec.getLsbD_and, BitVec.getLsbD_not, hbit]
    by_cases h : c = k <;> simp [h, hc]

/-- Settles O60: the step is the keyboard's event, which writes the key levels only. -/
theorem keyLevelSetsOneBit : Obligations.KeyLevelSetsOneBit := by
  intro s rest k down h0 hp
  have hplan : plan s = .move (keyboardLevel k down { s with pending := rest }) := by
    simp only [plan, h0, hp, if_true]
  refine ⟨_, step_of_move hplan, rfl, ?own, fun c hc => ?others, rfl⟩
  case own => exact (keyboardLevel_getLsbD ..).trans (if_pos rfl)
  case others => exact (keyboardLevel_getLsbD ..).trans (if_neg hc)

end Sys2Proof.Machine
end

section
/-!
SUPPORT. The host's transactions RESET, LOAD_FONT and LOAD_PROG (70_reset_and_hazards.md R200, R203, R204): each is the whole
of the step that takes it from the script.
-/

namespace Sys2Proof.Machine

open Sys2Proof

/-- Between frame steps the step performs the transaction at the head of the script (10_state.md R30): the converse of
`step_cases`. -/
theorem HostMove.step_eq {s t : State} {e : HostEvent} {rest : List HostEvent} (h0 : s.slot = 0) (hp : s.pending = e :: rest)
    (hm : HostMove { s with pending := rest } e t) : step s = .next t := by
  cases hm <;> exact step_of_move (by simp only [plan, h0, hp, if_true])

/-- RESET is a new construction of the core; the collaborators, the random source and the script stay (R200). -/
theorem hostReset_eq_construct (s : State) :
    hostReset s = { State.construct s.cfg s.fb with
      surface := s.surface, keys := s.keys, tone := s.tone, draws := s.draws, traceRev := s.traceRev, pending := s.pending,
      slot := s.slot } := rfl

/-- Settles O17: RESET constructs the core anew, and the slot counter it keeps is 0 between frame steps. -/
theorem resetTransaction : Obligations.ResetTransaction := by
  intro s rest h0 hp
  have hstep := HostMove.reset.step_eq h0 hp
  rwa [hostReset_eq_construct, h0] at hstep

/-- A byte of the font lies at its own index (R203). -/
theorem read_hostLoadFont_glyph (s : State) (k : Nat) (hk : k < 80) :
    Memory.read (hostLoadFont s).mem k = s.cfg.font[k] := by
  have hread := read_writeBlock_inside s.mem 0 s.cfg.font.toList k (by rwa [Vector.length_toList])
  rwa [Nat.zero_add, Vector.getElem_toList] at hread

theorem read_hostLoadFont_above (s : State) (a : Nat) (ha : 80 ≤ a) :
    Memory.read (hostLoadFont s).mem a = Memory.read s.mem a := by
  refine read_writeBlock_outside s.mem 0 s.cfg.font.toList a ?_
  rw [Vector.length_toList]
  omega

/-- Settles O18: the 80 font bytes are one block from address 0. -/
theorem loadFontWritesGlyphs : Obligations.LoadFontWritesGlyphs := by
  intro s rest h0 hp
  refine ⟨_, HostMove.loadFont.step_eq h0 hp, fun d j h _ => ?glyphs, fun a ha => ?above, rfl⟩
  case glyphs => exact read_hostLoadFont_glyph _ (5 * d + j) h
  case above => exact read_hostLoadFont_above _ a ha

/-- A program that fits is stored as one block, with the answer `ok` (R204). -/
theorem hostLoadProg_of_fits {bytes : List Byte} (s : State) (h : 0x200 + bytes.length ≤ 4096) :
    hostLoadProg bytes s = { s with mem := Memory.writeBlock s.mem progBase bytes, answer := some .ok } :=
  if_pos ((inBounds_iff _ _).2 h)

/-- A program that does not fit leaves nothing but the answer `rejected` (R204). -/
theorem hostLoadProg_of_too_long {bytes : List Byte} (s : State) (h : 4096 < 0x200 + bytes.length) :
    hostLoadProg bytes s = { s with answer := some .rejected } :=
  if_neg (mt (inBounds_iff _ _).1 (Nat.not_le_of_lt h))

/-- Settles O19: the bound decides between the block stored whole and the rejection. -/
theorem loadProgramAllOrNothing : Obligations.LoadProgramAllOrNothing := by
  intro s rest bytes h0 hp
  have hstep := (HostMove.loadProg bytes).step_eq h0 hp
  refine ⟨fun h => ?rejected, fun h => ?ok⟩
  case rejected => rwa [hostLoadProg_of_too_long _ (by omega)] at hstep
  case ok =>
    rw [hostLoadProg_of_fits _ (by omega)] at hstep
    refine ⟨_, hstep, rfl, read_writeBlock_inside s.mem 0x200 bytes, fun a ha => ?outside, rfl⟩
    exact read_writeBlock_outside s.mem 0x200 bytes a (by omega)

end Sys2Proof.Machine
end
